-- ==== Sys2Proof/Word.lean ====
section
/-! DEFINITION. The value types of the block (spec/00_scope.md R10, R11).

The unit of everything the block moves is the byte (R65).  The three fields of a frame that are wider than a
byte and that the spec treats as bits are the address (R82), the length and the checksum (R84, R86).
Counts, indexes and timestamps are unbounded naturals (R10, R31). -/

namespace Sys2Proof

/-- An unsigned 8-bit value (R10). -/
abbrev Byte := BitVec 8

/-- A 16-bit field of a frame: `LEN` or `CKSUM` (R84, R86). -/
abbrev Half := BitVec 16

/-- The 32-bit module address of a frame (R82). -/
abbrev Addr := BitVec 32

/-- One step line of a test program (R94), as the bytes that stand for it (notes/assumptions/2.md). -/
abbrev Line := List Byte

end Sys2Proof
end

