-- ==== Sys2Proof/Config.lean ====
section
/-! DEFINITION. The parameters of the block (spec/00_scope.md R8).

Every parameter the spec leaves OPEN is a natural number without a body here, so that no proof can see which
number it is.  `Params` pairs the three numbers that rules read with the proof that each lies in the range R8
gives it, so that parameters outside their range cannot be built (R264; `makeParams?` is the refusal). -/

namespace Sys2Proof

/-- The parameters rules read (R8): `MAX_PAYLOAD`, `USB_MPS` and `DEBOUNCE_T`, each in R8's range. -/
structure Params where
  /-- `MAX_PAYLOAD`: the largest payload a frame may carry and be relayed. -/
  maxPayload : Nat
  /-- `USB_MPS`: the largest number of bytes one USB read delivers. -/
  usbMps : Nat
  /-- `DEBOUNCE_T`: the stability window of the wake line, in `TIME_UNIT`. -/
  debounceT : Nat
  maxPayload_le : maxPayload ≤ 65533
  usbMps_pos : 1 ≤ usbMps
  debounceT_pos : 1 ≤ debounceT
  deriving DecidableEq, Repr

/-- The draw behind `MAX_PAYLOAD` (R8: OPEN). -/
opaque Config.maxPayloadDraw : Nat

/-- The draw behind `USB_MPS` (R8: OPEN). -/
opaque Config.usbMpsDraw : Nat

/-- The draw behind `DEBOUNCE_T` (R8: OPEN). -/
opaque Config.debounceDraw : Nat

/-- `TIME_UNIT` (R8: OPEN): the unit of the timestamps, here in microseconds.  No rule reads it. -/
opaque Config.timeUnit : Nat

/-- `READ_TIMEOUT` (R8: OPEN): how long a read waits.  No rule depends on its value (D14). -/
opaque Config.readTimeout : Nat

/-- `UART_BAUD` (R8): the serial link's rate, outside the block.  No rule depends on it. -/
opaque Config.uartBaud : Nat

/-- The parameters of this hardware: any values in R8's ranges, and no proof can tell which
(notes/assumptions/1.md). -/
def Config.params : Params where
  maxPayload := Config.maxPayloadDraw % 65534
  usbMps := Config.usbMpsDraw + 1
  debounceT := Config.debounceDraw + 1
  maxPayload_le := Nat.le_of_lt_succ (Nat.mod_lt _ (by decide))
  usbMps_pos := Nat.le_add_left 1 _
  debounceT_pos := Nat.le_add_left 1 _

end Sys2Proof
end

