-- ==== Sys2Proof/Machine/Codec.lean ====
section
/-! DEFINITION. The frame codec (spec/40_codec.md R110 to R114) and the frame format (spec/30_encoding.md R80 to
R88): pure functions of their arguments and of `MAX_PAYLOAD` (R119).  R9's `HDR_LEN = 9` (sync 2, address 4, type 1,
length 2), `OVERHEAD = 11` and `LEN_MIN = 2` stand as these numbers, as they do in the rules. -/

namespace Sys2Proof.Codec

/-- `SYNC_HI` (R9, R81). -/
abbrev syncHi : Byte := 0xEF

/-- `SYNC_LO` (R9, R81). -/
abbrev syncLo : Byte := 0x01

/-- The largest payload a 16-bit `LEN` can declare: `65535 - 2` (R8, R84). -/
abbrev maxLenPayload : Nat := 65533

/-- `BE16(a, b) = a*256 + b` (R11). -/
def be16 (a b : Byte) : Nat := a.toNat * 256 + b.toNat

/-- `BE32(a, b, c, d)` (R11). -/
def be32 (a b c d : Byte) : Nat := ((a.toNat * 256 + b.toNat) * 256 + c.toNat) * 256 + d.toNat

/-- The bits 15..8 of a 16-bit value. -/
def hi8 (v : Half) : Byte := v.extractLsb' 8 8

/-- The bits 7..0 of a 16-bit value. -/
def lo8 (v : Half) : Byte := v.extractLsb' 0 8

/-- The four bytes of an address, most significant first (R63). -/
def addrBytes (a : Addr) : List Byte :=
  [a.extractLsb' 24 8, a.extractLsb' 16 8, a.extractLsb' 8 8, a.extractLsb' 0 8]

/-- `B[i]` (R11); every use is guarded by a length test (R120). -/
def byteAt (B : List Byte) (i : Nat) : Byte := B.getD i 0

/-- `B[i..j)` (R11). -/
def slice (B : List Byte) (i j : Nat) : List Byte := (B.drop i).take (j - i)

/-- The sum of a byte sequence, as a natural. -/
def sumBytes (P : List Byte) : Nat := (P.map BitVec.toNat).sum

/-- `CSUM(t, L, P)`, R110: the two length bytes are added as two separate bytes, and the sum is reduced
modulo 65536. -/
def csum (t : Byte) (L : Half) (P : List Byte) : Half :=
  BitVec.ofNat 16 (t.toNat + (hi8 L).toNat + (lo8 L).toNat + sumBytes P)

/-- `FIND_SYNC(B)`, R111: the least index of a sync marker. -/
def findSync : List Byte → Option Nat
  | [] => none
  | [_] => none
  | a :: b :: rest =>
    if a = syncHi ∧ b = syncLo then some 0 else (findSync (b :: rest)).map (· + 1)

/-- The verdicts of `CLASSIFY` (R112): `i` is the index of the candidate's marker and `L` its `LEN` field. -/
inductive Verdict where
  | needHdr
  | needBody (i : Nat)
  | malformed (i L : Nat)
  | tooLarge (i L : Nat)
  | csumBad (i L : Nat)
  | good (i L : Nat)
  deriving DecidableEq, Repr

/-- The `LEN` field of the candidate at `i`: offsets 7 and 8 (R80). -/
def lenAt (B : List Byte) (i : Nat) : Nat := be16 (byteAt B (i + 7)) (byteAt B (i + 8))

/-- The received checksum of the candidate at `i` with `LEN = L` (R80). -/
def rxAt (B : List Byte) (i L : Nat) : Nat := be16 (byteAt B (i + 7 + L)) (byteAt B (i + 8 + L))

/-- The computed checksum of the candidate at `i` with `LEN = L` (R112). -/
def csumAt (B : List Byte) (i L : Nat) : Nat :=
  (csum (byteAt B (i + 6)) (BitVec.ofNat 16 L) (slice B (i + 9) (i + 7 + L))).toNat

/-- The verdict on the candidate whose marker is at `i`: R112's checks after the sync search, in R112's order. -/
def classifyAt (maxPayload : Nat) (B : List Byte) (i : Nat) : Verdict :=
  if B.length - i < 9 then .needBody i
  else if lenAt B i < 2 then .malformed i (lenAt B i)
  else if lenAt B i - 2 > maxPayload then .tooLarge i (lenAt B i)
  else if B.length - i < 9 + lenAt B i then .needBody i
  else if rxAt B i (lenAt B i) ≠ csumAt B i (lenAt B i) then .csumBad i (lenAt B i)
  else .good i (lenAt B i)

/-- `CLASSIFY(B)`, R112. -/
def classify (maxPayload : Nat) (B : List Byte) : Verdict :=
  match findSync B with
  | none => .needHdr
  | some i => classifyAt maxPayload B i

/-- A frame as a value (R113); its header is the constant `0xEF01` and is not stored. -/
structure Frame where
  addr : Addr
  ptype : Byte
  len : Half
  payload : List Byte
  checksum : Half
  deriving DecidableEq, Repr

/-- The source's `FrameError` (R113). -/
inductive FrameError where
  | malformedLength
  | frameTooLarge
  | checksumMismatch
  deriving DecidableEq, Repr

/-- What `DECODE` answers (R113). -/
inductive Decoded where
  | needMoreData
  | err (e : FrameError)
  | ok (f : Frame) (start consumed : Nat)
  deriving DecidableEq, Repr

/-- The frame whose marker is at `i` and whose `LEN` is `L` (R80, R113). -/
def frameAt (B : List Byte) (i L : Nat) : Frame where
  addr := BitVec.ofNat 32
    (be32 (byteAt B (i + 2)) (byteAt B (i + 3)) (byteAt B (i + 4)) (byteAt B (i + 5)))
  ptype := byteAt B (i + 6)
  len := BitVec.ofNat 16 L
  payload := slice B (i + 9) (i + 7 + L)
  checksum := BitVec.ofNat 16 (rxAt B i L)

/-- `DECODE(B)`, R113. -/
def decode (maxPayload : Nat) (B : List Byte) : Decoded :=
  match classify maxPayload B with
  | .needHdr => .needMoreData
  | .needBody _ => .needMoreData
  | .malformed _ _ => .err .malformedLength
  | .tooLarge _ _ => .err .frameTooLarge
  | .csumBad _ _ => .err .checksumMismatch
  | .good i L => .ok (frameAt B i L) i (i + 9 + L)

/-- The `LEN` field of a frame with payload `P` (R84): `|P| + 2`. -/
def lenField (P : List Byte) : Half := BitVec.ofNat 16 (P.length + 2)

/-- `ENCODE(a, t, P)`, R114, in the layout of R80.  Its domain is `|P| <= MAX_PAYLOAD`; the refusal outside it
is the instruction's (`execEncode`). -/
def encodeFrame (a : Addr) (t : Byte) (P : List Byte) : List Byte :=
  [syncHi, syncLo] ++ addrBytes a ++ [t, hi8 (lenField P), lo8 (lenField P)] ++ P
    ++ [hi8 (csum t (lenField P) P), lo8 (csum t (lenField P) P)]

end Sys2Proof.Codec

namespace Sys2Proof

/-- `CAP` (R8): the capacity of each relay buffer, one largest valid frame. -/
def Params.cap (p : Params) : Nat := p.maxPayload + 11

end Sys2Proof
end

