-- ==== Sys2Proof/Syntax.lean ====
section
/-! DEFINITION. The operations of the block as syntax: one constructor of `Instr` per row of
spec/opcode_table.json (R92 for the action codes, R81 and R89 for the frame rows).

The block has no instruction set (R2, R37): its "instructions" are its operations, and the operands that R13
calls draws (chunk sizes, injected bytes, sampled levels and times) are operands here. -/

namespace Sys2Proof

/-- A relay channel: host to sensor, or sensor to host (R14, R20). -/
inductive Chan where
  | h2s
  | s2h
  deriving DecidableEq, Repr

/-- The event monitor's published state (R29).  The code `11` is never held, so it has no constructor. -/
inductive EventState where
  | idle
  | touched
  | released
  deriving DecidableEq, Repr

/-- The operations of the block, one constructor per row of spec/opcode_table.json. -/
inductive Instr where
  /-- `CSUM(t, L, P)`, R110. -/
  | csum (t : Byte) (L : Half) (P : List Byte)
  /-- `FIND_SYNC(B)`, R111. -/
  | findSync (B : List Byte)
  /-- `CLASSIFY(B)`, R112. -/
  | classify (B : List Byte)
  /-- `DECODE(B)`, R113. -/
  | decode (B : List Byte)
  /-- `ENCODE(a, t, P)`, R114. -/
  | encode (a : Addr) (t : Byte) (P : List Byte)
  /-- `INJECT_UART(C)`, R141: the sensor sends bytes. -/
  | injectUart (C : List Byte)
  /-- `INJECT_USB(C)`, R142: the host sends bytes. -/
  | injectUsb (C : List Byte)
  /-- `RECV(c, k)`, R143: channel `c` reads a chunk of `k` bytes. -/
  | recv (c : Chan) (k : Nat)
  /-- `TIMEOUT(c)`, R145: a read of channel `c` times out. -/
  | timeout (c : Chan)
  /-- `SEND(c, k)`, R146: the sink of channel `c` accepts `k` bytes. -/
  | send (c : Chan) (k : Nat)
  /-- `USB_CONNECT`, R148. -/
  | usbConnect
  /-- `USB_DISCONNECT`, R149. -/
  | usbDisconnect
  /-- `RESOLVE(ch[c])`, R170. -/
  | resolve (c : Chan)
  /-- `COMPLETE(ch[c])`, R176. -/
  | complete (c : Chan)
  /-- `SAMPLE(v, t)`, R201: level `v` (true is high) at time `t`. -/
  | sample (v : Bool) (t : Nat)
  /-- `COMMIT(t)`, R202. -/
  | commit (t : Nat)
  /-- `PUBLISH(s)`, R204. -/
  | publish (e : EventState)
  /-- `TAKE`, R205. -/
  | take
  /-- `RESET`, R280. -/
  | reset
  /-- `TRANSITION(d)`, R203. -/
  | transition (d : Bool)
  /-- An unused action code `0x14 + x` (R92). -/
  | reserved14to17 (x : BitVec 2)
  /-- An unused action code `0x18 + x` (R92). -/
  | reserved18to1F (x : BitVec 3)
  /-- The sync marker alone (R81), arriving on the source of channel `c`. -/
  | sync (c : Chan)
  /-- A command frame (R83, type `0x01`) with address `a` and payload `P`, arriving on the source of `c`. -/
  | cmd (c : Chan) (a : Addr) (P : List Byte)
  /-- A data frame (type `0x02`). -/
  | data (c : Chan) (a : Addr) (P : List Byte)
  /-- An acknowledge frame (type `0x07`). -/
  | ack (c : Chan) (a : Addr) (P : List Byte)
  /-- An end-of-data frame (type `0x08`). -/
  | eod (c : Chan) (a : Addr) (P : List Byte)
  /-- A frame of any other type `t` (R89, `TYPE_OTHER`). -/
  | typeOther (c : Chan) (t : Byte) (a : Addr) (P : List Byte)
  deriving DecidableEq, Repr

end Sys2Proof
end

