-- ==== Sys2Proof/Machine/Operands.lean ====
section
/-! DEFINITION. The operand forms of a step line (spec/30_encoding.md R92, R94): channels, levels, event states
and naturals as bytes.  R94 gives each line as a tuple of the action code and its operands; the bytes below are
the model's own layout of such a tuple (notes/assumptions/2.md). -/

namespace Sys2Proof

/-- Why a line does not decode. -/
inductive DecodeError where
  /-- The line holds no byte. -/
  | emptyLine
  /-- The first bytes are neither an action code `0x00` to `0x1F` nor a sync marker. -/
  | unknownOpcode
  /-- The line ends before its operands do. -/
  | missingOperand
  /-- Bytes follow the last operand. -/
  | extraOperand
  /-- INJECT_UART or INJECT_USB with no bytes (R141, R142). -/
  | emptyBytes
  /-- A channel operand other than 0 or 1 (R94). -/
  | badChannel
  /-- A level operand other than 0 or 1 (R201, R203). -/
  | badLevel
  /-- An event state operand other than the codes 0, 1 and 2 (R29). -/
  | badEventState
  /-- A natural with a leading zero byte. -/
  | leadingZero
  /-- The bytes after a sync marker are not one whole legal frame (R80, R90). -/
  | badFrame
  deriving DecidableEq, Repr

namespace Operand

/-- Channel operands: 0 is H2S, 1 is S2H (R94). -/
def chanByte : Chan → Byte
  | .h2s => 0
  | .s2h => 1

/-- The channel of an operand byte (R94). -/
def chanOfByte (b : Byte) : Except DecodeError Chan :=
  if b = 0 then .ok .h2s else if b = 1 then .ok .s2h else .error .badChannel

/-- Level operands: 1 is high (R200). -/
def levelByte : Bool → Byte
  | false => 0
  | true => 1

/-- The level of an operand byte. -/
def levelOfByte (b : Byte) : Except DecodeError Bool :=
  if b = 0 then .ok false else if b = 1 then .ok true else .error .badLevel

/-- Event states by their codes (R29). -/
def eventByte : EventState → Byte
  | .idle => 0
  | .touched => 1
  | .released => 2

/-- The event state of an operand byte; the code `11` is never held (R29, R91). -/
def eventOfByte (b : Byte) : Except DecodeError EventState :=
  if b = 0 then .ok .idle else if b = 1 then .ok .touched else if b = 2 then .ok .released
  else .error .badEventState

/-- The base-256 digits of `n`, least significant first, none for 0.  The first argument bounds how many. -/
def digits : Nat → Nat → List Byte
  | 0, _ => []
  | fuel + 1, n => if n = 0 then [] else BitVec.ofNat 8 n :: digits fuel (n / 256)

/-- A natural as bytes, big-endian and without a leading zero byte; 0 is no byte at all. -/
def natBytes (n : Nat) : List Byte := (digits n n).reverse

/-- The natural that a big-endian byte sequence stands for. -/
def bytesNat (bs : List Byte) : Nat := bs.foldl (fun acc b => acc * 256 + b.toNat) 0

/-- The natural of an operand's bytes; each natural has one spelling. -/
def natOfBytes (bs : List Byte) : Except DecodeError Nat :=
  if bs.head? = some 0 then .error .leadingZero else .ok (bytesNat bs)

end Operand

end Sys2Proof
end

