-- ==== Sys2Proof/WellFormed.lean ====
section
/-! DEFINITION. Which terms of `Instr` are operations of the spec: the operand conditions that the rules put on
the operands themselves.  Conditions on the state (R233) are not checked here: an operation whose enabling
condition fails is well formed and has no move. -/

namespace Sys2Proof

/-- The four packet types with a name (R83). -/
def namedType (t : Byte) : Bool :=
  t == 0x01 || t == 0x02 || t == 0x07 || t == 0x08

/-- A payload whose length fits the 16-bit `LEN` field: `|P| + 2 <= 65535` (R84). -/
def payloadFits (P : List Byte) : Bool :=
  decide (P.length ≤ 65533)

/-- The operand conditions: an injected byte sequence is non-empty (R141, R142); a frame's payload fits its
`LEN` field (R84); a `TYPE_OTHER` frame has none of the named types (R89). -/
def Instr.wf : Instr → Bool
  | .csum _ _ _ => true
  | .findSync _ => true
  | .classify _ => true
  | .decode _ => true
  | .encode _ _ _ => true
  | .injectUart C => !C.isEmpty
  | .injectUsb C => !C.isEmpty
  | .recv _ _ => true
  | .timeout _ => true
  | .send _ _ => true
  | .usbConnect => true
  | .usbDisconnect => true
  | .resolve _ => true
  | .complete _ => true
  | .sample _ _ => true
  | .commit _ => true
  | .publish _ => true
  | .take => true
  | .reset => true
  | .transition _ => true
  | .reserved14to17 _ => true
  | .reserved18to1F _ => true
  | .sync _ => true
  | .cmd _ _ P => payloadFits P
  | .data _ _ P => payloadFits P
  | .ack _ _ P => payloadFits P
  | .eod _ _ P => payloadFits P
  | .typeOther _ t _ P => !namedType t && payloadFits P

end Sys2Proof
end

