-- ==== Sys2Proof/Decode.lean ====
section
/-! DEFINITION. The decoder and the encoder of step lines (spec/30_encoding.md R92, R94 and the frame format R80).

A line is an action code followed by its operands (R94), or a sync marker or a whole frame followed by the channel
it arrives on.  An action code is 5 bits and stands in a first byte `0x00` to `0x1F`; a frame begins with
`0xEF 0x01`, so the two never meet.  The layout of the operand bytes is the model's (notes/assumptions/2.md). -/

namespace Sys2Proof

open Codec Operand

/-- An operation without operands. -/
def noOperands (i : Instr) : List Byte → Except DecodeError Instr
  | [] => .ok i
  | _ :: _ => .error .extraOperand

/-- An operation whose one operand is a channel. -/
def chanOperand (f : Chan → Instr) : List Byte → Except DecodeError Instr
  | [] => .error .missingOperand
  | [c] => (chanOfByte c).map f
  | _ :: _ :: _ => .error .extraOperand

/-- An operation whose operands are a channel and a natural. -/
def chanNatOperands (f : Chan → Nat → Instr) : List Byte → Except DecodeError Instr
  | [] => .error .missingOperand
  | c :: ks => (chanOfByte c).bind fun c => (natOfBytes ks).map (f c)

/-- An operation whose operand is a non-empty byte sequence (R141, R142). -/
def bytesOperand (f : List Byte → Instr) : List Byte → Except DecodeError Instr
  | [] => .error .emptyBytes
  | b :: bs => .ok (f (b :: bs))

/-- The operands of CSUM (R110): the type, the two length bytes, the payload. -/
def csumOperands : List Byte → Except DecodeError Instr
  | t :: lh :: ll :: P => .ok (.csum t (BitVec.ofNat 16 (be16 lh ll)) P)
  | _ => .error .missingOperand

/-- The operands of ENCODE (R114): the four address bytes, the type, the payload. -/
def encodeOperands : List Byte → Except DecodeError Instr
  | a3 :: a2 :: a1 :: a0 :: t :: P => .ok (.encode (BitVec.ofNat 32 (be32 a3 a2 a1 a0)) t P)
  | _ => .error .missingOperand

/-- The operands of SAMPLE (R201): the level, the timestamp. -/
def sampleOperands : List Byte → Except DecodeError Instr
  | [] => .error .missingOperand
  | v :: ts => (levelOfByte v).bind fun v => (natOfBytes ts).map (.sample v)

/-- The operand of PUBLISH (R204): an event state. -/
def eventOperand : List Byte → Except DecodeError Instr
  | [] => .error .missingOperand
  | [e] => (eventOfByte e).map .publish
  | _ :: _ :: _ => .error .extraOperand

/-- The operand of TRANSITION (R203): the new debounced level. -/
def levelOperand : List Byte → Except DecodeError Instr
  | [] => .error .missingOperand
  | [d] => (levelOfByte d).map .transition
  | _ :: _ :: _ => .error .extraOperand

/-- The action codes of R92. -/
def decodeAction (code : Nat) (ops : List Byte) : Except DecodeError Instr :=
  match code with
  | 0x00 => csumOperands ops
  | 0x01 => .ok (.findSync ops)
  | 0x02 => .ok (.classify ops)
  | 0x03 => .ok (.decode ops)
  | 0x04 => encodeOperands ops
  | 0x05 => bytesOperand .injectUart ops
  | 0x06 => bytesOperand .injectUsb ops
  | 0x07 => chanNatOperands .recv ops
  | 0x08 => chanOperand .timeout ops
  | 0x09 => chanNatOperands .send ops
  | 0x0A => noOperands .usbConnect ops
  | 0x0B => noOperands .usbDisconnect ops
  | 0x0C => chanOperand .resolve ops
  | 0x0D => chanOperand .complete ops
  | 0x0E => sampleOperands ops
  | 0x0F => (natOfBytes ops).map .commit
  | 0x10 => eventOperand ops
  | 0x11 => noOperands .take ops
  | 0x12 => noOperands .reset ops
  | 0x13 => levelOperand ops
  | n =>
    if n < 0x18 then noOperands (.reserved14to17 (BitVec.ofNat 2 n)) ops
    else if n < 0x20 then noOperands (.reserved18to1F (BitVec.ofNat 3 n)) ops
    else .error .unknownOpcode

/-- The packet-type map of R89. -/
def frameInstr (c : Chan) (t : Byte) (a : Addr) (P : List Byte) : Instr :=
  if t = 0x01 then .cmd c a P
  else if t = 0x02 then .data c a P
  else if t = 0x07 then .ack c a P
  else if t = 0x08 then .eod c a P
  else .typeOther c t a P

/-- A whole frame `F`, read by `DECODE` (R113) at the widest `LEN`, and the channel's byte. -/
def decodeFrameLine (F : List Byte) (c : Byte) : Except DecodeError Instr :=
  match Codec.decode maxLenPayload F with
  | .ok f start consumed =>
    if start = 0 ∧ consumed = F.length then
      (chanOfByte c).map fun c => frameInstr c f.ptype f.addr f.payload
    else .error .badFrame
  | .needMoreData => .error .badFrame
  | .err _ => .error .badFrame

/-- The bytes after a first byte `SYNC_HI`: `SYNC_LO` and a channel are the bare marker, and anything longer is
the rest of a frame and a channel. -/
def decodeMarkerLine : List Byte → Except DecodeError Instr
  | [] => .error .missingOperand
  | [_] => .error .missingOperand
  | [b, c] => if b = syncLo then (chanOfByte c).map .sync else .error .unknownOpcode
  | b :: c :: d :: rest =>
    decodeFrameLine (syncHi :: (b :: c :: d :: rest).dropLast) ((b :: c :: d :: rest).getLastD 0)

/-- The decoder: total on any bytes, one meaning for each line it accepts. -/
def decode : Line → Except DecodeError Instr
  | [] => .error .emptyLine
  | b :: ops => if b = syncHi then decodeMarkerLine ops else decodeAction b.toNat ops

/-- A frame line: the frame of R80 and the channel it arrives on. -/
def encodeFrameLine (c : Chan) (t : Byte) (a : Addr) (P : List Byte) : Line :=
  encodeFrame a t P ++ [chanByte c]

/-- The encoder: the line of an operation. -/
def encode : Instr → Line
  | .csum t L P => 0x00 :: t :: hi8 L :: lo8 L :: P
  | .findSync B => 0x01 :: B
  | .classify B => 0x02 :: B
  | .decode B => 0x03 :: B
  | .encode a t P => 0x04 :: (addrBytes a ++ t :: P)
  | .injectUart C => 0x05 :: C
  | .injectUsb C => 0x06 :: C
  | .recv c k => 0x07 :: chanByte c :: natBytes k
  | .timeout c => [0x08, chanByte c]
  | .send c k => 0x09 :: chanByte c :: natBytes k
  | .usbConnect => [0x0A]
  | .usbDisconnect => [0x0B]
  | .resolve c => [0x0C, chanByte c]
  | .complete c => [0x0D, chanByte c]
  | .sample v t => 0x0E :: levelByte v :: natBytes t
  | .commit t => 0x0F :: natBytes t
  | .publish e => [0x10, eventByte e]
  | .take => [0x11]
  | .reset => [0x12]
  | .transition d => [0x13, levelByte d]
  | .reserved14to17 x => [0x14 + x.setWidth 8]
  | .reserved18to1F x => [0x18 + x.setWidth 8]
  | .sync c => [syncHi, syncLo, chanByte c]
  | .cmd c a P => encodeFrameLine c 0x01 a P
  | .data c a P => encodeFrameLine c 0x02 a P
  | .ack c a P => encodeFrameLine c 0x07 a P
  | .eod c a P => encodeFrameLine c 0x08 a P
  | .typeOther c t a P => encodeFrameLine c t a P

/-- How many operand bytes the shortest form of a row has, by its first byte. -/
def operandBytes (b : Byte) : Nat :=
  match b.toNat with
  | 0x00 => 3
  | 0x04 => 5
  | 0x05 => 1
  | 0x06 => 1
  | 0x07 => 1
  | 0x08 => 1
  | 0x09 => 1
  | 0x0C => 1
  | 0x0D => 1
  | 0x0E => 1
  | 0x10 => 1
  | 0x13 => 1
  | _ => 0

/-- The `n` bytes of a word numbered from its least significant bit, the first byte lowest. -/
def wordBytes : Nat → Nat → List Byte
  | 0, _ => []
  | n + 1, w => BitVec.ofNat 8 w :: wordBytes n (w / 256)

/-- The line that a row's bits stand for, its operands all zero.  The one row of 16 bits is the sync marker, a
16-bit big-endian field of a frame (R63, R81); every other row is read byte by byte (notes/assumptions/3.md). -/
def tableLine (nbits w : Nat) : Line :=
  if nbits = 16 ∧ w = 0xEF01 then [syncHi, syncLo, 0]
  else
    match wordBytes (max 1 ((nbits + 7) / 8)) w with
    | [] => []
    | b :: bs => b :: bs ++ List.replicate (operandBytes b - bs.length) 0

/-- The instruction that the decoder reads from a row's bits. -/
def decodeTableWord (nbits w : Nat) : Option Instr :=
  (decode (tableLine nbits w)).toOption

end Sys2Proof
end

