-- ==== Sys2Proof/Machine/State.lean ====
section
/-! DEFINITION. The state of the block and of the environment the spec keeps beside it (spec/10_state.md R20 to
R35), the state after reset (spec/70_reset_and_hazards.md R281), and the reasons a step can stop.

Three fields at the end of `State` are the model's own: the schedule of step lines still to run (R94, R232), the
last value a codec function or TAKE answered, and the marks of the model's own refusals (R264, D38). -/

namespace Sys2Proof.Machine

open Sys2Proof

/-- The control state of a channel (R23).  `error` is held only inside one RESOLVE (R177). -/
inductive ChSt where
  | waitHeader
  | waitBody
  | forwarding
  | error
  deriving DecidableEq, Repr

/-- One relay channel (R21 to R27).  `ch.n` (R22) is `buf.length`, see `Channel.n`. -/
structure Channel where
  /-- `ch.buf`, R21: the relay buffer, oldest byte first. -/
  buf : List Byte
  /-- `ch.st`, R23. -/
  st : ChSt
  /-- `ch.fwd_off`, R24. -/
  fwdOff : Nat
  /-- `ch.fwd_len`, R25. -/
  fwdLen : Nat
  /-- `ch.wr`, R26. -/
  wr : Nat
  deriving DecidableEq, Repr

/-- The event monitor (R29 to R33). -/
structure EventMonitor where
  /-- `evm.ev`, R29. -/
  ev : EventState
  /-- `evm.deb`, R30: the debounced level, true is high. -/
  deb : Bool
  /-- `evm.cand`, R31: the most recently sampled level. -/
  cand : Bool
  /-- `evm.cand_since`, R31. -/
  candSince : Nat
  /-- `evm.last_t`, R32. -/
  lastT : Nat
  /-- `evm.slot`, R33: `none` is empty, `some s` is `full(s)`. -/
  slot : Option EventState
  deriving DecidableEq, Repr

/-- The faults the block records (R251).  None of them stops the block (R257). -/
inductive DiagKind where
  | malformedLength
  | checksumMismatch
  | frameTooLarge
  | bufferOverrun
  | transportTimeout
  | transportDisconnected
  deriving DecidableEq, Repr

/-- Where a recorded fault arose (R251). -/
inductive Origin where
  | h2s
  | s2h
  | usb
  deriving DecidableEq, Repr

/-- A diagnostic record (R251): the fault and where it arose. -/
structure DiagRecord where
  kind : DiagKind
  origin : Origin
  deriving DecidableEq, Repr

/-- The marks of the model's own refusals (R264, D38): no move, and the mark is kept in the state. -/
inductive Mark where
  /-- ENCODE with `|P| > MAX_PAYLOAD` (R114). -/
  | encodePayload
  /-- SAMPLE with `t < evm.last_t` (R200). -/
  | sampleTime
  /-- An action code `0x14` to `0x1F` (R92). -/
  | reservedCode (code : Nat)
  /-- Parameters outside the ranges of R8. -/
  | parameters
  deriving DecidableEq, Repr

/-- What a codec function or TAKE answers (R110 to R114, R205). -/
inductive Result where
  | csum (c : Half)
  | sync (i : Option Nat)
  | verdict (v : Codec.Verdict)
  | decoded (d : Codec.Decoded)
  | frame (F : List Byte)
  | slot (e : Option EventState)
  deriving DecidableEq, Repr

/-- The state of the block, of the environment beside it, and of the model. -/
structure State where
  /-- The parameters (R8): constant, written by no step (notes/assumptions/1.md). -/
  params : Params
  /-- `ch[H2S]`, R20. -/
  h2s : Channel
  /-- `ch[S2H]`, R20. -/
  s2h : Channel
  /-- `usb_up`, R28. -/
  usbUp : Bool
  /-- `evm`, R29 to R33. -/
  evm : EventMonitor
  /-- `pend[H2S]`, R34: bytes the host has sent and the block has not read. -/
  pendH2S : List Byte
  /-- `pend[S2H]`, R34: bytes the sensor has sent and the block has not read. -/
  pendS2H : List Byte
  /-- `uart_out`, R35. -/
  uartOut : List Byte
  /-- The closed sessions of `usb_out`, R35 and R151, oldest first. -/
  usbClosed : List (List Byte)
  /-- The current session of `usb_out`, its last element (R151). -/
  usbCurrent : List Byte
  /-- `diag`, R35 and R251. -/
  diag : List DiagRecord
  /-- The model's own: the step lines still to run, next first (notes/assumptions/4.md). -/
  schedule : List Line
  /-- The model's own: the last value answered (notes/assumptions/5.md). -/
  result : Option Result
  /-- The model's own: the refusals so far (R264, D38; notes/assumptions/6.md). -/
  marks : List Mark
  deriving DecidableEq, Repr

/-- The reasons for which the machine stops with a fault.  There are none: "There are no fatal error conditions in
normal operation" (R250), no fault stops the block (R187, R257) and it never halts (R236).  What the spec calls
faults are the records of `DiagKind`. -/
inductive Fault where
  deriving DecidableEq, Repr

/-- The reasons for which a step has no meaning. -/
inductive Refusal where
  /-- Raised by an arm of `exec` whose instruction has no meaning yet.  Safe: the run stops there. -/
  | notModelled (mnemonic : String)
  /-- Raised by `step` on a line that the decoder rejects: no operation of the block.  Safe: the line layout is
  the model's own (notes/assumptions/2.md) and no operation of the spec is spelled that way. -/
  | undecodable (why : DecodeError)
  deriving DecidableEq, Repr

/-- The reset value of a channel (R21 to R26, R281). -/
def Channel.reset : Channel where
  buf := []
  st := .waitHeader
  fwdOff := 0
  fwdLen := 0
  wr := 0

/-- The reset value of the event monitor (R29 to R33, R281). -/
def EventMonitor.reset : EventMonitor where
  ev := .idle
  deb := false
  cand := false
  candSince := 0
  lastT := 0
  slot := none

/-- The state at power-on (R281, R282) with the parameters `p`, and nothing scheduled. -/
def State.resetWith (p : Params) : State where
  params := p
  h2s := .reset
  s2h := .reset
  usbUp := false
  evm := .reset
  pendH2S := []
  pendS2H := []
  uartOut := []
  usbClosed := []
  usbCurrent := []
  diag := []
  schedule := []
  result := none
  marks := []

/-- The machine right after reset: the state at power-on with this hardware's parameters. -/
def State.reset : State := .resetWith Config.params

end Sys2Proof.Machine
end

