-- ==== Sys2Proof/Machine/Flags.lean ====
section
/-! DEFINITION. The codes, the status outputs and the views of the state (spec/10_state.md R20, R22, R23, R29, R38, R39 and
spec/60_exceptions.md R251).  Every status output is read-only and reading one has no side effect (R39). -/

namespace Sys2Proof.Machine

open Sys2Proof

/-- The 2-bit code of `ch.st` (R23). -/
def ChSt.code : ChSt → BitVec 2
  | .waitHeader => 0b00
  | .waitBody => 0b01
  | .forwarding => 0b10
  | .error => 0b11

/-- The 2-bit code of `evm.ev` (R29). -/
def eventCode : EventState → BitVec 2
  | .idle => 0b00
  | .touched => 0b01
  | .released => 0b10

/-- The code of a recorded fault (R251); codes `0x0` and `0x7` to `0xF` are never recorded. -/
def DiagKind.code : DiagKind → BitVec 4
  | .malformedLength => 0x1
  | .checksumMismatch => 0x2
  | .frameTooLarge => 0x3
  | .bufferOverrun => 0x4
  | .transportTimeout => 0x5
  | .transportDisconnected => 0x6

/-- The number that says where a fault arose (R251). -/
def Origin.code : Origin → Nat
  | .h2s => 0
  | .s2h => 1
  | .usb => 2

/-- A diagnostic record as R251 writes it: `(code(K), w)`. -/
def DiagRecord.codes (r : DiagRecord) : BitVec 4 × Nat := (r.kind.code, r.origin.code)

/-- `ch.n`, R22: the count of bytes held, always the length of `ch.buf`. -/
def Channel.n (ch : Channel) : Nat := ch.buf.length

/-- The wait states: the states in which a channel reads (R143). -/
def ChSt.isWait : ChSt → Bool
  | .waitHeader => true
  | .waitBody => true
  | .forwarding => false
  | .error => false

/-- `slot_full`, R38. -/
def EventMonitor.slotFull (e : EventMonitor) : Bool := e.slot.isSome

/-- The width of the status output `ch.n` in bits, `ceil(log2(CAP + 1))` (R39). -/
def nWidth (p : Params) : Nat := Nat.log2 p.cap + 1

/-- The status outputs of R39. -/
structure Status where
  stH2S : BitVec 2
  stS2H : BitVec 2
  nH2S : Nat
  nS2H : Nat
  usbUp : Bool
  slotFull : Bool
  ev : BitVec 2
  deriving DecidableEq, Repr

/-- What the status outputs show (R39): the registers of R21 to R33. -/
def State.status (s : State) : Status where
  stH2S := s.h2s.st.code
  stS2H := s.s2h.st.code
  nH2S := s.h2s.n
  nS2H := s.s2h.n
  usbUp := s.usbUp
  slotFull := s.evm.slotFull
  ev := eventCode s.evm.ev

/-- `usb_out`, R35: the sessions, the last being the current one; never empty. -/
def State.usbOut (s : State) : List (List Byte) := s.usbClosed ++ [s.usbCurrent]

/-- The state of the block, the tuple `S` of R20; `E`, the rest of what R20 names, is the environment's. -/
structure Block where
  h2s : Channel
  s2h : Channel
  usbUp : Bool
  evm : EventMonitor
  deriving DecidableEq, Repr

/-- `S` of R20. -/
def State.block (s : State) : Block where
  h2s := s.h2s
  s2h := s.s2h
  usbUp := s.usbUp
  evm := s.evm

/-- The records of `diag` that name `o` (R251), in their order: of the one list, the part that one writer appends to
(R254). -/
def State.recordsOf (s : State) (o : Origin) : List DiagRecord := s.diag.filter fun q => decide (q.origin = o)

end Sys2Proof.Machine
end

