-- ==== Sys2Proof/Machine/Ops.lean ====
section
/-! DEFINITION. The named operations over the state: channels, source queues and traces; raising a fault (R251),
which is the block's whole "exception entry" (R255) and has no return (R256); the relay procedures RESOLVE (R170
to R175) and COMPLETE (R176); the steps of the channels, of the link and of the event monitor; the pseudo-steps
of R94; reset (R280); and the fetch of the next step line.

A step that is not enabled has no move (R13): its operation answers the state it was given. -/

namespace Sys2Proof.Machine

open Sys2Proof

/-! ### Access to the state -/

/-- `ch[c]`, R20. -/
def State.ch (s : State) : Chan → Channel
  | .h2s => s.h2s
  | .s2h => s.s2h

/-- `ch[c] <- x`. -/
def State.setCh (s : State) : Chan → Channel → State
  | .h2s, x => { s with h2s := x }
  | .s2h, x => { s with s2h := x }

/-- `pend[c]`, R34. -/
def State.pend (s : State) : Chan → List Byte
  | .h2s => s.pendH2S
  | .s2h => s.pendS2H

/-- `pend[c] <- B`. -/
def State.setPend (s : State) : Chan → List Byte → State
  | .h2s, B => { s with pendH2S := B }
  | .s2h, B => { s with pendS2H := B }

/-- `emit(sink(c), C)`, R35 and R146: the sink of H2S is the UART, the sink of S2H is the USB, whose current session
is the last element of `usb_out`. -/
def State.emit (s : State) : Chan → List Byte → State
  | .h2s, C => { s with uartOut := s.uartOut ++ C }
  | .s2h, C => { s with usbCurrent := s.usbCurrent ++ C }

/-- What the sink of channel `c` has received: `uart_out`, or the current session of `usb_out`. -/
def State.sink (s : State) : Chan → List Byte
  | .h2s => s.uartOut
  | .s2h => s.usbCurrent

/-- Where a fault of channel `c` arises (R251). -/
def originOf : Chan → Origin
  | .h2s => .h2s
  | .s2h => .s2h

/-- `raise K(w)` for each `K` of a list, in its order, R251: the records are appended to `diag` and nothing else
changes. -/
def State.raise (s : State) (ks : List DiagKind) (w : Origin) : State :=
  { s with diag := s.diag ++ ks.map fun k => { kind := k, origin := w } }

/-- A refusal of the model (R264): no move, and the mark is kept in the state (D38). -/
def State.refuse (s : State) (m : Mark) : State :=
  { s with marks := s.marks ++ [m] }

/-- An answer: the value that a codec function or TAKE gives. -/
def State.answer (s : State) (r : Result) : State :=
  { s with result := some r }

/-- `usb_out <- usb_out ++ [[]]`, R151: the current session is closed and an empty one opens. -/
def State.closeSession (s : State) : State :=
  { s with usbClosed := s.usbClosed ++ [s.usbCurrent], usbCurrent := [] }

/-- The conditions a link puts on the source of channel `c`: H2S reads only while `usb_up` (R143, R145); the UART is
always up (R150). -/
def State.sourceUp (s : State) : Chan → Bool
  | .h2s => s.usbUp
  | .s2h => true

/-- The conditions a link puts on the sink of channel `c`: S2H sends only while `usb_up` (R146, R147). -/
def State.sinkUp (s : State) : Chan → Bool
  | .h2s => true
  | .s2h => s.usbUp

/-- The most bytes one read of channel `c` can bring, as far as the link bounds it: `USB_MPS` on USB (R144). -/
def chunkBound (p : Params) (c : Chan) (k : Nat) : Bool :=
  match c with
  | .h2s => decide (k ≤ p.usbMps)
  | .s2h => true

/-! ### The relay procedures -/

/-- Outside `Forwarding` the three Forwarding registers are 0 (R27). -/
def Channel.waitIn (ch : Channel) (st : ChSt) : Channel :=
  { ch with st := st, fwdOff := 0, fwdLen := 0, wr := 0 }

/-- The body of a fault branch (R171 to R174) less its record: enter `Error`, drop `k` bytes from the front, leave
to `WaitHeader` (R177). -/
def Channel.errorDrop (ch : Channel) (k : Nat) : Channel :=
  let entered : Channel := { ch with st := .error }
  let dropped : Channel := { entered with buf := entered.buf.drop k }
  { dropped with st := .waitHeader }

/-- The accept branch, R175. -/
def Channel.accept (ch : Channel) (i L : Nat) : Channel :=
  { ch with st := .forwarding, fwdOff := i, fwdLen := 9 + L, wr := 0 }

/-- One iteration of RESOLVE's loop (R170): it returns with a channel, or it raises a fault, drops bytes and
continues. -/
inductive Iteration where
  | done (ch : Channel)
  | again (k : DiagKind) (ch : Channel)
  deriving DecidableEq, Repr

/-- The iteration for a verdict `NEED_HDR` or `NEED_BODY`: the overrun branch (R171) on a full buffer, else the wait
state `st` (R170). -/
def needMore (p : Params) (ch : Channel) (st : ChSt) : Iteration :=
  if ch.buf.length = p.cap then .again .bufferOverrun (ch.errorDrop 1) else .done (ch.waitIn st)

/-- One iteration of RESOLVE's loop, by the verdict (R170 to R175). -/
def resolveOnce (p : Params) (ch : Channel) : Iteration :=
  match Codec.classify p.maxPayload ch.buf with
  | .needHdr => needMore p ch .waitHeader
  | .needBody _ => needMore p ch .waitBody
  | .malformed i _ => .again .malformedLength (ch.errorDrop (i + 2))
  | .tooLarge i _ => .again .frameTooLarge (ch.errorDrop (i + 2))
  | .csumBad i L => .again .checksumMismatch (ch.errorDrop (i + 9 + L))
  | .good i L => .done (ch.accept i L)

/-- RESOLVE's loop, at most the given number of iterations: the channel it ends with and the faults it raises, in
order (R170, R254). -/
def resolveLoop (p : Params) : Nat → Channel → Channel × List DiagKind
  | 0, ch => (ch, [])
  | fuel + 1, ch =>
    match resolveOnce p ch with
    | .done ch' => (ch', [])
    | .again k ch' => ((resolveLoop p fuel ch').1, k :: (resolveLoop p fuel ch').2)

/-- RESOLVE on a channel, R170: it runs at most `|ch.buf| + 1` iterations (R178). -/
def resolveChannel (p : Params) (ch : Channel) : Channel × List DiagKind :=
  resolveLoop p (ch.buf.length + 1) ch

/-- `RESOLVE(ch[c])`, R170. -/
def State.resolve (s : State) (c : Chan) : State :=
  let r := resolveChannel s.params (s.ch c)
  (s.setCh c r.1).raise r.2 (originOf c)

/-- `COMPLETE(ch[c])`, R176. -/
def State.complete (s : State) (c : Chan) : State :=
  let ch := s.ch c
  let consumed : Channel := { ch with buf := ch.buf.drop (ch.fwdOff + ch.fwdLen) }
  (s.setCh c (consumed.waitIn .waitHeader)).resolve c

/-! ### Channel steps -/

/-- The free space of the buffer of channel `c`, `CAP - |ch[c].buf|` (R143). -/
def State.freeSpace (s : State) (c : Chan) : Nat := s.params.cap - (s.ch c).buf.length

/-- When `RECV(c, k)` is enabled (R143, R144, R233). -/
def recvEnabled (s : State) (c : Chan) (k : Nat) : Bool :=
  (s.ch c).st.isWait && decide (1 ≤ k) && decide (k ≤ s.freeSpace c) && decide (k ≤ (s.pend c).length)
    && s.sourceUp c && chunkBound s.params c k

/-- `RECV(c, k)`, R143. -/
def State.recv (s : State) (c : Chan) (k : Nat) : State :=
  if recvEnabled s c k then
    let ch := s.ch c
    let filled : Channel := { ch with buf := ch.buf ++ (s.pend c).take k }
    ((s.setCh c filled).setPend c ((s.pend c).drop k)).resolve c
  else s

/-- When `TIMEOUT(c)` is enabled (R145, R233). -/
def timeoutEnabled (s : State) (c : Chan) : Bool :=
  (s.ch c).st.isWait && (s.pend c).isEmpty && s.sourceUp c

/-- `TIMEOUT(c)`, R145. -/
def State.timeout (s : State) (c : Chan) : State :=
  if timeoutEnabled s c then s.raise [.transportTimeout] (originOf c) else s

/-- When `SEND(c, k)` is enabled (R146, R233). -/
def sendEnabled (s : State) (c : Chan) (k : Nat) : Bool :=
  decide ((s.ch c).st = .forwarding) && decide (1 ≤ k) && decide (k ≤ (s.ch c).fwdLen - (s.ch c).wr)
    && s.sinkUp c

/-- The chunk `SEND(c, k)` emits, `MemRead(ch[c], ch[c].fwd_off + ch[c].wr, k)` (R12, R146). -/
def Channel.chunk (ch : Channel) (k : Nat) : List Byte :=
  Codec.slice ch.buf (ch.fwdOff + ch.wr) (ch.fwdOff + ch.wr + k)

/-- `SEND(c, k)`, R146. -/
def State.send (s : State) (c : Chan) (k : Nat) : State :=
  if sendEnabled s c k then
    let ch := s.ch c
    let advanced : Channel := { ch with wr := ch.wr + k }
    let sent := (s.emit c (ch.chunk k)).setCh c advanced
    if advanced.wr = advanced.fwdLen then sent.complete c else sent
  else s

/-! ### The sources and the USB link -/

/-- Bytes arrive on the source of channel `c`: `INJECT_UART(C)` (R141, always enabled) or `INJECT_USB(C)` (R142,
enabled when `usb_up`). -/
def State.inject (s : State) (c : Chan) (C : List Byte) : State :=
  if s.sourceUp c then s.setPend c (s.pend c ++ C) else s

/-- `USB_CONNECT`, R148. -/
def State.connect (s : State) : State :=
  if s.usbUp then s else { s with usbUp := true }

/-- What USB_DISCONNECT leaves of `ch[H2S]` (R149): a frame on its way to the UART is kept and the carryover after it
dropped; any other content is dropped. -/
def Channel.drain (ch : Channel) : Channel :=
  if ch.st = .forwarding then { ch with buf := ch.buf.take (ch.fwdOff + ch.fwdLen) }
  else { ch with buf := [], st := .waitHeader }

/-- What USB_DISCONNECT leaves of `ch[S2H]` (R149): the buffer is kept and a frame being sent starts again. -/
def Channel.restart (ch : Channel) : Channel :=
  if ch.st = .forwarding then { ch with wr := 0 } else ch

/-- `USB_DISCONNECT`, R149. -/
def State.disconnect (s : State) : State :=
  if s.usbUp then
    let down : State :=
      { s with usbUp := false, pendH2S := [], h2s := s.h2s.drain, s2h := s.s2h.restart }
    down.closeSession.raise [.transportDisconnected] .usb
  else s

/-! ### The event monitor -/

/-- `PUBLISH(s)`, R204. -/
def EventMonitor.publish (e : EventMonitor) (x : EventState) : EventMonitor :=
  { e with slot := some x }

/-- `TRANSITION(d)`, R203. -/
def EventMonitor.transition (e : EventMonitor) (d : Bool) : EventMonitor :=
  if d then ({ e with ev := .touched } : EventMonitor).publish .touched
  else ({ e with ev := .released } : EventMonitor).publish .released

/-- `COMMIT(t)`, R202; `t - cand_since >= DEBOUNCE_T` as a sum, so that nothing is subtracted. -/
def EventMonitor.commit (p : Params) (e : EventMonitor) (t : Nat) : EventMonitor :=
  if e.cand ≠ e.deb ∧ e.candSince + p.debounceT ≤ t then
    ({ e with deb := e.cand } : EventMonitor).transition e.cand
  else e

/-- The first part of `SAMPLE(v, t)`, R201, before its COMMIT. -/
def EventMonitor.observe (e : EventMonitor) (v : Bool) (t : Nat) : EventMonitor :=
  if v ≠ e.cand then { e with lastT := t, cand := v, candSince := t } else { e with lastT := t }

/-- `SAMPLE(v, t)`, R201: refused when `t < evm.last_t` (R200, R264). -/
def State.sample (s : State) (v : Bool) (t : Nat) : State :=
  if t < s.evm.lastT then s.refuse .sampleTime
  else { s with evm := (s.evm.observe v t).commit s.params t }

/-- `TAKE`, R205. -/
def State.take (s : State) : State :=
  ({ s with evm := { s.evm with slot := none } } : State).answer (.slot s.evm.slot)

/-! ### Reset and parameters -/

/-- `RESET`, R280: every register returns to its reset value; `uart_out` and `diag` are not changed, and the USB session
ends if the link was up. -/
def State.toReset (s : State) : State :=
  let closed := if s.usbUp then s.closeSession else s
  { closed with
    h2s := .reset
    s2h := .reset
    pendH2S := []
    pendS2H := []
    usbUp := false
    evm := .reset }

/-- Parameters by their numbers, refused outside the ranges of R8 (R264). -/
def makeParams? (maxPayload usbMps debounceT : Nat) : Option Params :=
  if h : maxPayload ≤ 65533 ∧ 1 ≤ usbMps ∧ 1 ≤ debounceT then
    some ⟨maxPayload, usbMps, debounceT, h.1, h.2.1, h.2.2⟩
  else none

/-- Choosing the parameters before a run (R8): out of range they are refused with a mark (R264, D38).  No step of
the block does this: the parameters are fixed at compile time (R39). -/
def State.configure (s : State) (maxPayload usbMps debounceT : Nat) : State :=
  match makeParams? maxPayload usbMps debounceT with
  | some p => { s with params := p }
  | none => s.refuse .parameters

/-! ### The pseudo-steps of R94 -/

/-- The count of `RECV c *`, R94. -/
def recvAllCount (s : State) (c : Chan) : Nat :=
  let room := min (s.freeSpace c) (s.pend c).length
  match c with
  | .h2s => min room s.params.usbMps
  | .s2h => room

/-- `RECV c *`, R94. -/
def State.recvAll (s : State) (c : Chan) : State := s.recv c (recvAllCount s c)

/-- `DRAIN c`, R94: `RECV c *` while the channel waits and its source has bytes, at most the given number of times.
It ends early where `RECV c *` is not enabled, since repeating it then changes nothing. -/
def drainLoop (c : Chan) : Nat → State → State
  | 0, s => s
  | fuel + 1, s =>
    if (s.ch c).st.isWait && !(s.pend c).isEmpty then drainLoop c fuel (s.recvAll c) else s

/-- `DRAIN c`, R94: every enabled read takes at least one byte, so `|pend[c]|` repetitions are enough. -/
def State.drain (s : State) (c : Chan) : State := drainLoop c (s.pend c).length s

/-- `FLUSH c`, R94. -/
def State.flush (s : State) (c : Chan) : State := s.send c ((s.ch c).fwdLen - (s.ch c).wr)

/-- The loop of `RELAY c`, R94: while the channel is in `Forwarding`, `FLUSH c` and then `DRAIN c`. -/
def relayLoop (c : Chan) : Nat → State → State
  | 0, s => s
  | fuel + 1, s =>
    if (s.ch c).st = .forwarding then relayLoop c fuel ((s.flush c).drain c) else s

/-- `RELAY c`, R94.  Each completed frame takes bytes out of `ch[c].buf` and `pend[c]`, so their number bounds the
repetitions; where the sink is down FLUSH has no move and the channel stays in `Forwarding`. -/
def State.relay (s : State) (c : Chan) : State :=
  relayLoop c ((s.ch c).buf.length + (s.pend c).length) (s.drain c)

/-- Bytes `F` arrive on the source of channel `c` and the block relays what they make whole: `INJECT F` and then
`RELAY c` (R89, R94; notes/assumptions/7.md).  Where the INJECT is not enabled nothing happens (R142). -/
def State.deliver (s : State) (c : Chan) (F : List Byte) : State :=
  if s.sourceUp c then (s.inject c F).relay c else s

/-! ### Fetch -/

/-- The next step line and the state without it, if one is scheduled (R94). -/
def State.fetch (s : State) : Option (Line × State) :=
  match s.schedule with
  | [] => none
  | l :: rest => some (l, { s with schedule := rest })

end Sys2Proof.Machine
end

