-- ==== Sys2Proof/Machine/Bridge.lean ====
section
/-! DEFINITION. The procedures of the relay state machine as operations (spec/42_bridge.md R170 to R177).  A procedure runs
inside the step that calls it (R92); run by itself it has the effect below (notes/assumptions/8.md). -/

namespace Sys2Proof.Machine

open Sys2Proof

/-- `RESOLVE(ch[c])`, R170. -/
def execResolve (c : Chan) (s : State) : Host.Outcome State Fault Refusal :=
  .next (s.resolve c)

/-- `COMPLETE(ch[c])`, R176. -/
def execComplete (c : Chan) (s : State) : Host.Outcome State Fault Refusal :=
  .next (s.complete c)

end Sys2Proof.Machine
end

