-- ==== Sys2Proof/Machine/CodecOps.lean ====
section
/-! DEFINITION. The codec functions as operations (spec/40_codec.md R110 to R114): each answers a value and writes no
register of 10_state.md (R119). -/

namespace Sys2Proof.Machine

open Sys2Proof

/-- `CSUM(t, L, P)`, R110. -/
def execCsum (t : Byte) (L : Half) (P : List Byte) (s : State) : Host.Outcome State Fault Refusal :=
  .next (s.answer (.csum (Codec.csum t L P)))

/-- `FIND_SYNC(B)`, R111. -/
def execFindSync (B : List Byte) (s : State) : Host.Outcome State Fault Refusal :=
  .next (s.answer (.sync (Codec.findSync B)))

/-- `CLASSIFY(B)`, R112. -/
def execClassify (B : List Byte) (s : State) : Host.Outcome State Fault Refusal :=
  .next (s.answer (.verdict (Codec.classify s.params.maxPayload B)))

/-- `DECODE(B)`, R113. -/
def execDecode (B : List Byte) (s : State) : Host.Outcome State Fault Refusal :=
  .next (s.answer (.decoded (Codec.decode s.params.maxPayload B)))

/-- `ENCODE(a, t, P)`, R114: refused with a mark outside its domain `|P| <= MAX_PAYLOAD` (R264, D38). -/
def execEncode (a : Addr) (t : Byte) (P : List Byte) (s : State) : Host.Outcome State Fault Refusal :=
  .next (if P.length > s.params.maxPayload then s.refuse .encodePayload
    else s.answer (.frame (Codec.encodeFrame a t P)))

end Sys2Proof.Machine
end

