-- ==== Sys2Proof/Machine/Frames.lean ====
section
/-! DEFINITION. The rows of the packet-type map (spec/30_encoding.md R81, R89): a frame, or the bare sync marker, arrives on the
source of a channel and the block relays it (notes/assumptions/7.md). -/

namespace Sys2Proof.Machine

open Sys2Proof

/-- `SYNC`, R81: the two bytes of the marker arrive and no more. -/
def execSync (c : Chan) (s : State) : Host.Outcome State Fault Refusal :=
  .next (s.deliver c [Codec.syncHi, Codec.syncLo])

/-- A `CMD` frame arrives and is relayed (R83, R89): its type is not interpreted. -/
def execCmd (c : Chan) (a : Addr) (P : List Byte) (s : State) : Host.Outcome State Fault Refusal :=
  .next (s.deliver c (Codec.encodeFrame a 0x01 P))

/-- A `DATA` frame arrives and is relayed (R83, R89): its type is not interpreted. -/
def execData (c : Chan) (a : Addr) (P : List Byte) (s : State) : Host.Outcome State Fault Refusal :=
  .next (s.deliver c (Codec.encodeFrame a 0x02 P))

/-- An `ACK` frame arrives and is relayed (R83, R89): its type is not interpreted. -/
def execAck (c : Chan) (a : Addr) (P : List Byte) (s : State) : Host.Outcome State Fault Refusal :=
  .next (s.deliver c (Codec.encodeFrame a 0x07 P))

/-- An `EOD` frame arrives and is relayed (R83, R89): its type is not interpreted. -/
def execEod (c : Chan) (a : Addr) (P : List Byte) (s : State) : Host.Outcome State Fault Refusal :=
  .next (s.deliver c (Codec.encodeFrame a 0x08 P))

/-- A frame of another type arrives and is relayed like the others (R89, R91). -/
def execTypeOther (c : Chan) (t : Byte) (a : Addr) (P : List Byte) (s : State) : Host.Outcome State Fault Refusal :=
  .next (s.deliver c (Codec.encodeFrame a t P))

end Sys2Proof.Machine
end

