-- ==== Sys2Proof/Machine/Monitor.lean ====
section
/-! DEFINITION. The event monitor's steps and procedures (spec/43_event_monitor.md R201 to R205). -/

namespace Sys2Proof.Machine

open Sys2Proof

/-- `SAMPLE(v, t)`, R201; refused with a mark when `t < evm.last_t` (R200, R264). -/
def execSample (v : Bool) (t : Nat) (s : State) : Host.Outcome State Fault Refusal :=
  .next (s.sample v t)

/-- `COMMIT(t)`, R202. -/
def execCommit (t : Nat) (s : State) : Host.Outcome State Fault Refusal :=
  .next { s with evm := s.evm.commit s.params t }

/-- `PUBLISH(s)`, R204. -/
def execPublish (e : EventState) (s : State) : Host.Outcome State Fault Refusal :=
  .next { s with evm := s.evm.publish e }

/-- `TAKE`, R205. -/
def execTake (s : State) : Host.Outcome State Fault Refusal :=
  .next s.take

/-- `TRANSITION(d)`, R203. -/
def execTransition (d : Bool) (s : State) : Host.Outcome State Fault Refusal :=
  .next { s with evm := s.evm.transition d }

end Sys2Proof.Machine
end

