-- ==== Sys2Proof/Machine/Power.lean ====
section
/-! DEFINITION. Reset (spec/70_reset_and_hazards.md R280) and the unused action codes (spec/30_encoding.md R92). -/

namespace Sys2Proof.Machine

open Sys2Proof

/-- `RESET`, R280. -/
def execReset (s : State) : Host.Outcome State Fault Refusal :=
  .next s.toReset

/-- The action codes `0x14` to `0x17`: refused, with no move and a mark (R92, R264, D38). -/
def execReserved14to17 (x : BitVec 2) (s : State) : Host.Outcome State Fault Refusal :=
  .next (s.refuse (.reservedCode (0x14 + x.toNat)))

/-- The action codes `0x18` to `0x1F`: refused, with no move and a mark (R92, R264, D38). -/
def execReserved18to1F (x : BitVec 3) (s : State) : Host.Outcome State Fault Refusal :=
  .next (s.refuse (.reservedCode (0x18 + x.toNat)))

end Sys2Proof.Machine
end

