-- ==== Sys2Proof/Machine/Transport.lean ====
section
/-! DEFINITION. The transport steps (spec/41_transport.md R141 to R149). -/

namespace Sys2Proof.Machine

open Sys2Proof

/-- `INJECT_UART(C)`, R141: the sensor sends bytes. -/
def execInjectUart (C : List Byte) (s : State) : Host.Outcome State Fault Refusal :=
  .next (s.inject .s2h C)

/-- `INJECT_USB(C)`, R142: the host sends bytes; no move while `usb_up` is false. -/
def execInjectUsb (C : List Byte) (s : State) : Host.Outcome State Fault Refusal :=
  .next (s.inject .h2s C)

/-- `RECV(c, k)`, R143. -/
def execRecv (c : Chan) (k : Nat) (s : State) : Host.Outcome State Fault Refusal :=
  .next (s.recv c k)

/-- `TIMEOUT(c)`, R145. -/
def execTimeout (c : Chan) (s : State) : Host.Outcome State Fault Refusal :=
  .next (s.timeout c)

/-- `SEND(c, k)`, R146. -/
def execSend (c : Chan) (k : Nat) (s : State) : Host.Outcome State Fault Refusal :=
  .next (s.send c k)

/-- `USB_CONNECT`, R148. -/
def execUsbConnect (s : State) : Host.Outcome State Fault Refusal :=
  .next s.connect

/-- `USB_DISCONNECT`, R149. -/
def execUsbDisconnect (s : State) : Host.Outcome State Fault Refusal :=
  .next s.disconnect

end Sys2Proof.Machine
end

