-- ==== Sys2Proof/Machine/Dispatch.lean ====
section
/-! DEFINITION. The dispatch: one arm per constructor of `Instr`. -/

namespace Sys2Proof.Machine

open Sys2Proof

def exec (i : Instr) (s : State) : Host.Outcome State Fault Refusal :=
  match i with
  | .csum t L P => Sys2Proof.Machine.execCsum t L P s
  | .findSync B => Sys2Proof.Machine.execFindSync B s
  | .classify B => Sys2Proof.Machine.execClassify B s
  | .decode B => Sys2Proof.Machine.execDecode B s
  | .encode a t P => Sys2Proof.Machine.execEncode a t P s
  | .injectUart C => Sys2Proof.Machine.execInjectUart C s
  | .injectUsb C => Sys2Proof.Machine.execInjectUsb C s
  | .recv c k => Sys2Proof.Machine.execRecv c k s
  | .timeout c => Sys2Proof.Machine.execTimeout c s
  | .send c k => Sys2Proof.Machine.execSend c k s
  | .usbConnect => Sys2Proof.Machine.execUsbConnect s
  | .usbDisconnect => Sys2Proof.Machine.execUsbDisconnect s
  | .resolve c => Sys2Proof.Machine.execResolve c s
  | .complete c => Sys2Proof.Machine.execComplete c s
  | .sample v t => Sys2Proof.Machine.execSample v t s
  | .commit t => Sys2Proof.Machine.execCommit t s
  | .publish e => Sys2Proof.Machine.execPublish e s
  | .take => Sys2Proof.Machine.execTake s
  | .reset => Sys2Proof.Machine.execReset s
  | .transition d => Sys2Proof.Machine.execTransition d s
  | .reserved14to17 x => Sys2Proof.Machine.execReserved14to17 x s
  | .reserved18to1F x => Sys2Proof.Machine.execReserved18to1F x s
  | .sync c => Sys2Proof.Machine.execSync c s
  | .cmd c a P => Sys2Proof.Machine.execCmd c a P s
  | .data c a P => Sys2Proof.Machine.execData c a P s
  | .ack c a P => Sys2Proof.Machine.execAck c a P s
  | .eod c a P => Sys2Proof.Machine.execEod c a P s
  | .typeOther c t a P => Sys2Proof.Machine.execTypeOther c t a P s

end Sys2Proof.Machine
end

