-- ==== Sys2Proof/Machine/Step.lean ====
section
/-! DEFINITION. One step of the machine: the next step line of the schedule is fetched, decoded and run (R13, R94,
R232).  Which step comes next is the environment's choice (R232): the schedule holds it as data, and every
schedule is admitted. -/

namespace Sys2Proof.Machine

open Sys2Proof

/-- One step: the next scheduled line is taken off the schedule and its operation run; with nothing scheduled the
block waits, unchanged (R236: it never halts). -/
def step (s : State) : Host.Outcome State Fault Refusal :=
  match s.fetch with
  | none => .next s
  | some (l, s') =>
    match Sys2Proof.decode l with
    | .ok i => exec i s'
    | .error e => .refused (.undecodable e)

/-- The state with the line of a table word placed where the next step fetches. -/
def State.withFetchWord (s : State) (nbits w : Nat) : State :=
  { s with schedule := tableLine nbits w :: s.schedule }

end Sys2Proof.Machine
end

