-- ==== Sys2Proof/Safety.lean ====
section
/-! DEFINITION. The terms in which claims are made: the agents and their steps (spec/44_dispatch.md R230), the
enabling conditions as one table (R233), the pacing classes (R234), rest states (R236), the invariants (spec/10_state.md R40 and
spec/43_event_monitor.md R203), sequences of steps, and the named premises of R234. -/

namespace Sys2Proof.Machine

open Sys2Proof

/-! ### Agents and kinds of operations -/

/-- The agents of R230. -/
inductive Agent where
  | h2s
  | s2h
  | evm
  | env
  deriving DecidableEq, Repr

/-- The agent of a channel's steps (R230). -/
def agentOf : Chan → Agent
  | .h2s => .h2s
  | .s2h => .s2h

/-- The kinds of operations (R92), with the unused codes and the rows of the packet-type map. -/
inductive OpKind where
  | codec
  | step (a : Agent)
  | procedure
  | unused
  | frame
  deriving DecidableEq, Repr

/-- The kind of each operation (R92, R230). -/
def opKind : Instr → OpKind
  | .csum _ _ _ => .codec
  | .findSync _ => .codec
  | .classify _ => .codec
  | .decode _ => .codec
  | .encode _ _ _ => .codec
  | .injectUart _ => .step .env
  | .injectUsb _ => .step .env
  | .recv c _ => .step (agentOf c)
  | .timeout c => .step (agentOf c)
  | .send c _ => .step (agentOf c)
  | .usbConnect => .step .env
  | .usbDisconnect => .step .env
  | .resolve _ => .procedure
  | .complete _ => .procedure
  | .sample _ _ => .step .evm
  | .commit _ => .procedure
  | .publish _ => .procedure
  | .take => .step .env
  | .reset => .step .env
  | .transition _ => .procedure
  | .reserved14to17 _ => .unused
  | .reserved18to1F _ => .unused
  | .sync _ => .frame
  | .cmd _ _ _ => .frame
  | .data _ _ _ => .frame
  | .ack _ _ _ => .frame
  | .eod _ _ _ => .frame
  | .typeOther _ _ _ _ => .frame

/-- The enabling conditions of the steps of R230, one table (R233); an operation that is no step of an agent is
enabled nowhere. -/
def enabled (s : State) : Instr → Bool
  | .recv c k => recvEnabled s c k
  | .timeout c => timeoutEnabled s c
  | .send c k => sendEnabled s c k
  | .injectUart _ => true
  | .injectUsb _ => s.usbUp
  | .usbConnect => !s.usbUp
  | .usbDisconnect => s.usbUp
  | .sample _ t => decide (s.evm.lastT ≤ t)
  | .take => true
  | .reset => true
  | .csum _ _ _ => false
  | .findSync _ => false
  | .classify _ => false
  | .decode _ => false
  | .encode _ _ _ => false
  | .resolve _ => false
  | .complete _ => false
  | .commit _ => false
  | .publish _ => false
  | .transition _ => false
  | .reserved14to17 _ => false
  | .reserved18to1F _ => false
  | .sync _ => false
  | .cmd _ _ _ => false
  | .data _ _ _ => false
  | .ack _ _ _ => false
  | .eod _ _ _ => false
  | .typeOther _ _ _ _ => false

/-! ### Byte sequences -/

/-- `B` has a sync marker at `i` (R111). -/
def MarkerAt (B : List Byte) (i : Nat) : Prop := B[i]? = some 0xEF ∧ B[i + 1]? = some 0x01

/-- The first sync marker of `B` is at `i` (R111). -/
def FirstMarker (B : List Byte) (i : Nat) : Prop := MarkerAt B i ∧ ∀ j, j < i → ¬ MarkerAt B j

/-! ### Invariants and rest states -/

/-- The invariant of a channel, R40; `fwd_ranges` is `0 <= ch.wr <= ch.fwd_len` and its "moreover", and
`canonical` is R27. -/
structure ChannelInv (p : Params) (ch : Channel) : Prop where
  bound : ch.buf.length ≤ p.cap
  not_error : ch.st ≠ .error
  header : ch.st = .waitHeader ↔
    Codec.classify p.maxPayload ch.buf = .needHdr ∧ ch.buf.length < p.cap
  body : ch.st = .waitBody ↔
    (∃ i, Codec.classify p.maxPayload ch.buf = .needBody i) ∧ ch.buf.length < p.cap
  forwarding : ch.st = .forwarding ↔
    ∃ i L, Codec.classify p.maxPayload ch.buf = .good i L ∧ ch.fwdOff = i ∧ ch.fwdLen = 9 + L
      ∧ ch.wr ≤ ch.fwdLen
  fwd_ranges : ch.st = .forwarding → ch.wr < ch.fwdLen
  canonical : ch.st ≠ .forwarding → ch.fwdOff = 0 ∧ ch.fwdLen = 0 ∧ ch.wr = 0

/-- R40 of both channels. -/
structure RelayInv (s : State) : Prop where
  h2s : ChannelInv s.params s.h2s
  s2h : ChannelInv s.params s.s2h

/-- The invariant of the event monitor: `evm.ev = Touched` exactly when `evm.deb = 1` (R203), and the candidate level
was first seen no later than the last sample (R31, R32). -/
structure MonitorInv (e : EventMonitor) : Prop where
  touched : e.ev = .touched ↔ e.deb = true
  since : e.candSince ≤ e.lastT

/-- A rest state, R236. -/
def Rest (s : State) : Prop :=
  s.pendH2S = [] ∧ s.pendS2H = [] ∧ s.h2s.st.isWait = true ∧ (s.s2h.st.isWait = true ∨ s.usbUp = false)

/-! ### Sequences of steps -/

/-- The outcome of running operations one after another. -/
def follow : List Instr → State → Host.Outcome State Fault Refusal
  | [], s => .next s
  | i :: is, s =>
    match exec i s with
    | .next t => follow is t
    | .fault r => .fault r
    | .refused r => .refused r

/-- Every operation of the sequence is enabled where it runs (R233). -/
def AllEnabled : List Instr → State → Prop
  | [], _ => True
  | i :: is, s => enabled s i = true ∧ ∀ t, exec i s = .next t → AllEnabled is t

/-- An operation that feeds channel `c`: bytes arriving on its source, a read, or a read that times out. -/
def Feeds (c : Chan) : Instr → Prop
  | .injectUsb _ => c = .h2s
  | .injectUart _ => c = .s2h
  | .recv c' _ => c' = c
  | .timeout c' => c' = c
  | _ => False

/-- The bytes that the operations of a sequence put on a source, in order. -/
def arrivals : List Instr → List Byte
  | [] => []
  | .injectUsb C :: is => C ++ arrivals is
  | .injectUart C :: is => C ++ arrivals is
  | _ :: is => arrivals is

/-- The step puts bytes on the source of channel `c`. -/
def ArrivesOn (c : Chan) : Instr → Prop
  | .injectUsb C => c = .h2s ∧ C ≠ []
  | .injectUart C => c = .s2h ∧ C ≠ []
  | _ => False

/-- The steps that change the link or the whole block; R235 says that only they fail to commute with channel steps. -/
def changesLink : Instr → Bool
  | .usbConnect => true
  | .usbDisconnect => true
  | .reset => true
  | _ => false

/-- The steps that bear on channel `c`: its own, what arrives on its source, and those that change the link (R235). -/
def bearsOn (c : Chan) (i : Instr) : Bool :=
  decide (opKind i = .step (agentOf c)) || changesLink i ||
    match i with
    | .injectUsb _ => decide (c = .h2s)
    | .injectUart _ => decide (c = .s2h)
    | _ => false

/-- What channel `c` has emitted, by sessions: `usb_out` for S2H; the UART has one session (R35, R150). -/
def emitted (s : State) : Chan → List (List Byte)
  | .h2s => [s.uartOut]
  | .s2h => s.usbOut

/-- When `RECV(c, k)` is enabled, in R143's and R144's words. -/
def RecvReady (s : State) (c : Chan) (k : Nat) : Prop :=
  ((s.ch c).st = .waitHeader ∨ (s.ch c).st = .waitBody) ∧ 1 ≤ k
    ∧ k ≤ min (s.params.maxPayload + 11 - (s.ch c).buf.length) (s.pend c).length
    ∧ (c = .h2s → s.usbUp = true ∧ k ≤ s.params.usbMps)

/-- When `SEND(c, k)` is enabled, in R146's words. -/
def SendReady (s : State) (c : Chan) (k : Nat) : Prop :=
  (s.ch c).st = .forwarding ∧ 1 ≤ k ∧ k ≤ (s.ch c).fwdLen - (s.ch c).wr ∧ (c = .s2h → s.usbUp = true)

/-- When `TIMEOUT(c)` is enabled, in R145's words. -/
def TimeoutReady (s : State) (c : Chan) : Prop :=
  ((s.ch c).st = .waitHeader ∨ (s.ch c).st = .waitBody) ∧ s.pend c = [] ∧ (c = .h2s → s.usbUp = true)

/-- The two pacing classes of R234: a step the block takes of itself, and one whose time the environment chooses. -/
inductive Pacing where
  | block
  | environment
  deriving DecidableEq, Repr

/-- The pacing class of each step (R234): RECV on a channel whose source has bytes and TIMEOUT are block-paced; SEND,
SAMPLE and every step of AG_ENV are environment-paced.  What is no step of an agent has no class. -/
def pacing (s : State) : Instr → Option Pacing
  | .recv c _ => if (s.pend c).isEmpty then none else some .block
  | .timeout _ => some .block
  | .send _ _ => some .environment
  | .sample _ _ => some .environment
  | .injectUart _ => some .environment
  | .injectUsb _ => some .environment
  | .usbConnect => some .environment
  | .usbDisconnect => some .environment
  | .take => some .environment
  | .reset => some .environment
  | .csum _ _ _ => none
  | .findSync _ => none
  | .classify _ => none
  | .decode _ => none
  | .encode _ _ _ => none
  | .resolve _ => none
  | .complete _ => none
  | .commit _ => none
  | .publish _ => none
  | .transition _ => none
  | .reserved14to17 _ => none
  | .reserved18to1F _ => none
  | .sync _ => none
  | .cmd _ _ _ => none
  | .data _ _ _ => none
  | .ack _ _ _ => none
  | .eod _ _ _ => none
  | .typeOther _ _ _ _ => none

/-- An endless run: the operations an arbitration chose (R232) and the states between them, each operation being an
enabled step (R231). -/
structure EndlessRun where
  op : Nat → Instr
  at_ : Nat → State
  enabled_op : ∀ n, enabled (at_ n) (op n) = true
  follows : ∀ n, exec (op n) (at_ n) = .next (at_ (n + 1))

/-- Weak fairness of block-paced reads (R234): a read that stays enabled from some point on is taken. -/
def FairReads (r : EndlessRun) : Prop :=
  ∀ c n, (∀ m, n ≤ m → ∃ k, enabled (r.at_ m) (.recv c k) = true) → ∃ m, n ≤ m ∧ ∃ k, r.op m = .recv c k

/-- `SINK_LIVE(c)` (R234): whenever the channel forwards and its sink's link is up, some SEND of it happens. -/
def SinkLive (r : EndlessRun) (c : Chan) : Prop :=
  ∀ n, ((r.at_ n).ch c).st = .forwarding → (r.at_ n).sinkUp c = true → ∃ m, n ≤ m ∧ ∃ k, r.op m = .send c k

/-- `SAMPLED(p)` (R234): the timestamps of consecutive SAMPLEs differ by at most `p`, in either direction (a RESET lets
the time start again). -/
def Sampled (r : EndlessRun) (p : Nat) : Prop :=
  ∀ n m v t w u, n < m → r.op n = .sample v t → r.op m = .sample w u →
    (∀ j, n < j → j < m → ∀ x y, r.op j ≠ .sample x y) → u ≤ t + p ∧ t ≤ u + p

/-- `SAMPLED(p)` of a list of timestamps: each differs from the next by at most `p`. -/
def GapsWithin (p : Nat) : List Nat → Prop
  | [] => True
  | [_] => True
  | t :: u :: ts => (u ≤ t + p ∧ t ≤ u + p) ∧ GapsWithin p (u :: ts)

end Sys2Proof.Machine
end

