-- ==== Sys2Proof/Certificates/Slice0/Obligations.lean ====
section
/-! DEFINITION. The statements for the provers: def Obligations.<Name> : Prop, from the numbered rules of spec/.

Every parameter is a variable here (`s.params`), so a statement holds for all values R8 allows.  A docstring names
the rule a statement formalises; where it rests on a choice that the spec marks as its own decision (D<n>) or on an
entry of notes/assumptions, it says so.  `result`, where an operation's answer stands, is the model's own field
(notes/assumptions/5.md). -/

open Sys2Proof Sys2Proof.Machine

/-! ### The codec -/

/-- R110: CSUM answers the sum of the type, the two length bytes and the payload bytes, modulo 65536, and changes
nothing else. -/
def Obligations.CsumAnswersTheSum : Prop :=
  ∀ (t : Byte) (L : Half) (P : List Byte) (s : State), ∃ c : Half,
    c.toNat = (t.toNat + L.toNat / 256 + L.toNat % 256 + (P.map BitVec.toNat).sum) % 65536
      ∧ exec (.csum t L P) s = .next { s with result := some (.csum c) }

/-- R111 with the spec's own decision D6 (the least index): FIND_SYNC answers the least index of a marker, or none
when there is no marker. -/
def Obligations.FindSyncAnswersTheFirstMarker : Prop :=
  ∀ (B : List Byte) (s : State), ∃ r : Option Nat,
    exec (.findSync B) s = .next { s with result := some (.sync r) }
      ∧ (∀ i, r = some i ↔ FirstMarker B i)
      ∧ (r = none ↔ ∀ i, ¬ MarkerAt B i)

/-- R112 with the spec's own decisions D3 and D4 (when the length faults are detected): CLASSIFY's checks, in their
order. -/
def Obligations.ClassifyChecksInOrder : Prop :=
  ∀ (B : List Byte) (s : State), ∃ v : Codec.Verdict,
    exec (.classify B) s = .next { s with result := some (.verdict v) }
      ∧ ((∀ i, ¬ MarkerAt B i) → v = .needHdr)
      ∧ ∀ i, FirstMarker B i →
        let room := B.length - i
        let L := (B.getD (i + 7) 0).toNat * 256 + (B.getD (i + 8) 0).toNat
        let rx := (B.getD (i + 7 + L) 0).toNat * 256 + (B.getD (i + 8 + L) 0).toNat
        let P := (B.drop (i + 9)).take (L - 2)
        let sum := ((B.getD (i + 6) 0).toNat + L / 256 + L % 256 + (P.map BitVec.toNat).sum) % 65536
        (room < 9 → v = .needBody i)
          ∧ (9 ≤ room → L < 2 → v = .malformed i L)
          ∧ (9 ≤ room → 2 ≤ L → s.params.maxPayload < L - 2 → v = .tooLarge i L)
          ∧ (9 ≤ room → 2 ≤ L → L - 2 ≤ s.params.maxPayload → room < 9 + L → v = .needBody i)
          ∧ (2 ≤ L → L - 2 ≤ s.params.maxPayload → 9 + L ≤ room → rx ≠ sum → v = .csumBad i L)
          ∧ (2 ≤ L → L - 2 ≤ s.params.maxPayload → 9 + L ≤ room → rx = sum → v = .good i L)

/-- R113: DECODE is defined from the verdict that CLASSIFY answers on the same bytes. -/
def Obligations.DecodeFollowsTheVerdict : Prop :=
  ∀ (B : List Byte) (s : State), ∃ (v : Codec.Verdict) (d : Codec.Decoded),
    exec (.classify B) s = .next { s with result := some (.verdict v) }
      ∧ exec (.decode B) s = .next { s with result := some (.decoded d) }
      ∧ (v = .needHdr → d = .needMoreData)
      ∧ (∀ i, v = .needBody i → d = .needMoreData)
      ∧ (∀ i L, v = .malformed i L → d = .err .malformedLength)
      ∧ (∀ i L, v = .tooLarge i L → d = .err .frameTooLarge)
      ∧ (∀ i L, v = .csumBad i L → d = .err .checksumMismatch)
      ∧ (∀ i L, v = .good i L → ∃ f : Codec.Frame, d = .ok f i (i + 9 + L)
          ∧ f.addr.toNat = (((B.getD (i + 2) 0).toNat * 256 + (B.getD (i + 3) 0).toNat) * 256
              + (B.getD (i + 4) 0).toNat) * 256 + (B.getD (i + 5) 0).toNat
          ∧ f.ptype = B.getD (i + 6) 0
          ∧ f.len.toNat = L
          ∧ f.payload = (B.drop (i + 9)).take (L - 2)
          ∧ f.checksum.toNat = (B.getD (i + 7 + L) 0).toNat * 256 + (B.getD (i + 8 + L) 0).toNat
          ∧ f.len.toNat = f.payload.length + 2
          ∧ f.checksum = Codec.csum f.ptype f.len f.payload)

/-- R114 and the layout of R80: on its domain ENCODE answers the frame's bytes, every field at its offset, most
significant byte first. -/
def Obligations.EncodeWritesTheFrameLayout : Prop :=
  ∀ (a : Addr) (t : Byte) (P : List Byte) (s : State), P.length ≤ s.params.maxPayload →
    ∃ F : List Byte, exec (.encode a t P) s = .next { s with result := some (.frame F) }
      ∧ F.length = 11 + P.length
      ∧ F.take 2 = [0xEF, 0x01]
      ∧ (((F.getD 2 0).toNat * 256 + (F.getD 3 0).toNat) * 256 + (F.getD 4 0).toNat) * 256
          + (F.getD 5 0).toNat = a.toNat
      ∧ F.getD 6 0 = t
      ∧ (F.getD 7 0).toNat * 256 + (F.getD 8 0).toNat = P.length + 2
      ∧ (F.drop 9).take P.length = P
      ∧ (F.getD (9 + P.length) 0).toNat * 256 + (F.getD (10 + P.length) 0).toNat
          = (t.toNat + (P.length + 2) / 256 + (P.length + 2) % 256 + (P.map BitVec.toNat).sum) % 65536

/-- The spec's own decision D38, in the form of notes/assumptions/6.md: each refusal of the model is no move and a mark. -/
def Obligations.RefusalsLeaveOnlyAMark : Prop :=
  ∀ s : State,
    (∀ a t P, s.params.maxPayload < P.length →
      exec (.encode a t P) s = .next { s with marks := s.marks ++ [.encodePayload] })
      ∧ (∀ v t, t < s.evm.lastT → exec (.sample v t) s = .next { s with marks := s.marks ++ [.sampleTime] })
      ∧ (∀ x : BitVec 2, exec (.reserved14to17 x) s
          = .next { s with marks := s.marks ++ [.reservedCode (0x14 + x.toNat)] })
      ∧ (∀ x : BitVec 3, exec (.reserved18to1F x) s
          = .next { s with marks := s.marks ++ [.reservedCode (0x18 + x.toNat)] })
      ∧ (∀ m u d, (65533 < m ∨ u = 0 ∨ d = 0) →
          s.configure m u d = { s with marks := s.marks ++ [.parameters] })

/-- R115: DECODE of an encoded frame gives the frame back. -/
def Obligations.DecodeOfEncodedFrame : Prop :=
  ∀ (a : Addr) (t : Byte) (P : List Byte) (s : State), P.length ≤ s.params.maxPayload →
    ∃ (F : List Byte) (f : Codec.Frame),
      exec (.encode a t P) s = .next { s with result := some (.frame F) }
        ∧ exec (.decode F) s = .next { s with result := some (.decoded (.ok f 0 (11 + P.length))) }
        ∧ f.addr = a ∧ f.ptype = t ∧ f.len.toNat = P.length + 2 ∧ f.payload = P
        ∧ f.checksum = Codec.csum t f.len P

/-- R116: one flipped bit in one payload byte of an encoded frame gives `CSUM_BAD(0, |P| + 2)`. -/
def Obligations.PayloadBitFlipIsDetected : Prop :=
  ∀ (a : Addr) (t : Byte) (P : List Byte) (j bit : Nat) (s : State),
    P.length ≤ s.params.maxPayload → j < P.length → bit < 8 →
      exec (.classify ((Codec.encodeFrame a t P).set (9 + j) (P.getD j 0 ^^^ BitVec.twoPow 8 bit))) s
        = .next { s with result := some (.verdict (.csumBad 0 (P.length + 2))) }

/-- R117: every proper prefix of an encoded frame needs more data, and the whole frame is decoded. -/
def Obligations.PartialFramesNeedMoreData : Prop :=
  ∀ (a : Addr) (t : Byte) (P : List Byte) (s : State), P.length ≤ s.params.maxPayload →
    (∀ B, B <+: Codec.encodeFrame a t P → B.length < (Codec.encodeFrame a t P).length →
      exec (.decode B) s = .next { s with result := some (.decoded .needMoreData) })
      ∧ ∃ f, exec (.decode (Codec.encodeFrame a t P)) s
          = .next { s with result := some (.decoded (.ok f 0 (11 + P.length))) }
        ∧ f.addr = a ∧ f.ptype = t ∧ f.len.toNat = P.length + 2 ∧ f.payload = P
        ∧ f.checksum = Codec.csum t f.len P

/-- R118: a decided verdict is not changed by later bytes. -/
def Obligations.DecidedVerdictsAreLocal : Prop :=
  ∀ (B T : List Byte) (v : Codec.Verdict) (s : State),
    (∃ i L, v = .good i L ∨ v = .csumBad i L ∨ v = .malformed i L ∨ v = .tooLarge i L) →
      exec (.classify B) s = .next { s with result := some (.verdict v) } →
        exec (.classify (B ++ T)) s = .next { s with result := some (.verdict v) }

/-- R119: what a codec function answers depends on its arguments and on `MAX_PAYLOAD` alone, it writes no register, and
    it answers on all arguments, ENCODE's on its domain (outside it: RefusalsLeaveOnlyAMark).  That the answer stands in
    the field `result` is the model's choice, notes/assumptions/5.md. -/
def Obligations.CodecFunctionsArePure : Prop :=
  ∀ (i : Instr) (m : Nat), opKind i = .codec → (∀ a t P, i = .encode a t P → P.length ≤ m) →
    ∃ r, ∀ s : State, s.params.maxPayload = m → exec i s = .next { s with result := some r }

/-- What the spec's note on what the checksum does not detect says of the address and of the payload (its sync
marker is notes/assumptions/9.md): a frame whose address was changed, or whose payload was changed so that the byte
sum is the same modulo 65536, is still `GOOD`. -/
def Obligations.ChecksumMissesAddressAndCancellingChanges : Prop :=
  ∀ (a a' : Addr) (t : Byte) (P P' : List Byte) (s : State),
    P.length ≤ s.params.maxPayload → P'.length = P.length →
    (P'.map BitVec.toNat).sum % 65536 = (P.map BitVec.toNat).sum % 65536 →
      exec (.classify ([0xEF, 0x01] ++ Codec.addrBytes a'
          ++ ((Codec.encodeFrame a t P).drop 6).take 3 ++ P' ++ (Codec.encodeFrame a t P).drop (9 + P.length))) s
        = .next { s with result := some (.verdict (.good 0 (P.length + 2))) }

/-! ### The transport steps -/

/-- INJECT_UART's and R142's INJECT_USB's effects: INJECT_UART appends to `pend[S2H]` always, INJECT_USB to
`pend[H2S]` while `usb_up`, and has no move otherwise. -/
def Obligations.InjectAppendsToTheSource : Prop :=
  ∀ (C : List Byte) (s : State),
    exec (.injectUart C) s = .next { s with pendS2H := s.pendS2H ++ C }
      ∧ (s.usbUp = true → exec (.injectUsb C) s = .next { s with pendH2S := s.pendH2S ++ C })
      ∧ (s.usbUp = false → exec (.injectUsb C) s = .next s)

/-- RECV's effect, with the USB bound (the spec's own decision D15): an enabled RECV moves the chunk to the buffer
and runs RESOLVE in the same step; a RECV that is not enabled has no move. -/
def Obligations.RecvMovesTheChunkAndResolves : Prop :=
  ∀ (c : Chan) (k : Nat) (s : State),
    (RecvReady s c k → ∃ t, exec (.recv c k) s = .next t
      ∧ exec (.resolve c)
          ((s.setCh c { s.ch c with buf := (s.ch c).buf ++ (s.pend c).take k }).setPend c ((s.pend c).drop k))
        = .next t)
      ∧ (¬ RecvReady s c k → exec (.recv c k) s = .next s)

/-- R179: in `Forwarding` no read happens, so the source's bytes stay in `pend[c]`. -/
def Obligations.ForwardingStopsReads : Prop :=
  ∀ (c : Chan) (k : Nat) (s : State), (s.ch c).st = .forwarding →
    enabled s (.recv c k) = false ∧ exec (.recv c k) s = .next s

/-- TIMEOUT's effect (when it is enabled is the spec's own decision D14): an enabled TIMEOUT appends one
`TransportTimeout` record and changes nothing else, a partial frame included; one that is not enabled has no move. -/
def Obligations.TimeoutOnlyRecords : Prop :=
  ∀ (c : Chan) (s : State),
    (TimeoutReady s c →
      exec (.timeout c) s
        = .next { s with diag := s.diag ++ [{ kind := .transportTimeout, origin := originOf c }] })
      ∧ (¬ TimeoutReady s c → exec (.timeout c) s = .next s)

/-- R146: an enabled SEND emits the next `k` bytes of the frame to the channel's sink and advances `ch.wr`; with the
last byte it runs COMPLETE in the same step; a SEND that is not enabled has no move. -/
def Obligations.SendEmitsAndCompletes : Prop :=
  ∀ (k : Nat) (s : State),
    (SendReady s .h2s k →
      let sent : State := { s with
        uartOut := s.uartOut ++ (s.h2s.buf.drop (s.h2s.fwdOff + s.h2s.wr)).take k
        h2s := { s.h2s with wr := s.h2s.wr + k } }
      (s.h2s.wr + k < s.h2s.fwdLen → exec (.send .h2s k) s = .next sent)
        ∧ (s.h2s.wr + k = s.h2s.fwdLen →
            ∃ t, exec (.send .h2s k) s = .next t ∧ exec (.complete .h2s) sent = .next t))
      ∧ (SendReady s .s2h k →
        let sent : State := { s with
          usbCurrent := s.usbCurrent ++ (s.s2h.buf.drop (s.s2h.fwdOff + s.s2h.wr)).take k
          s2h := { s.s2h with wr := s.s2h.wr + k } }
        (s.s2h.wr + k < s.s2h.fwdLen → exec (.send .s2h k) s = .next sent)
          ∧ (s.s2h.wr + k = s.s2h.fwdLen →
              ∃ t, exec (.send .s2h k) s = .next t ∧ exec (.complete .s2h) sent = .next t))
      ∧ (∀ c, ¬ SendReady s c k → exec (.send c k) s = .next s)

/-- From R146 and R176: the SEND steps from `wr = 0` to `wr = fwd_len`, in any chunks, hand the sink exactly the
frame's bytes, contiguous and in order, and end as COMPLETE leaves the channel. -/
def Obligations.SendsHandOverTheWholeFrame : Prop :=
  ∀ (c : Chan) (ks : List Nat) (s : State),
    (s.ch c).st = .forwarding → (s.ch c).wr = 0 → 0 < (s.ch c).fwdLen → ks.sum = (s.ch c).fwdLen →
    AllEnabled (ks.map (Instr.send c)) s →
      ∃ u, follow (ks.map (Instr.send c)) s = .next u
        ∧ exec (.complete c) (s.emit c (((s.ch c).buf.drop (s.ch c).fwdOff).take (s.ch c).fwdLen)) = .next u
        ∧ u.sink c = s.sink c ++ ((s.ch c).buf.drop (s.ch c).fwdOff).take (s.ch c).fwdLen

/-- R148: USB_CONNECT sets `usb_up` and nothing else; with the link up it has no move. -/
def Obligations.ConnectSetsTheLinkFlag : Prop :=
  ∀ s : State,
    (s.usbUp = false → exec .usbConnect s = .next { s with usbUp := true })
      ∧ (s.usbUp = true → exec .usbConnect s = .next s)

/-- The spec's own decision D11: everything USB_DISCONNECT does, and that it has no move with the link down. -/
def Obligations.DisconnectDrainsAndRestarts : Prop :=
  ∀ s : State,
    (s.usbUp = true → exec .usbDisconnect s = .next { s with
      usbUp := false
      pendH2S := []
      h2s := if s.h2s.st = .forwarding then { s.h2s with buf := s.h2s.buf.take (s.h2s.fwdOff + s.h2s.fwdLen) }
        else { s.h2s with buf := [], st := .waitHeader }
      s2h := if s.s2h.st = .forwarding then { s.s2h with wr := 0 } else s.s2h
      usbClosed := s.usbClosed ++ [s.usbCurrent]
      usbCurrent := []
      diag := s.diag ++ [{ kind := .transportDisconnected, origin := .usb }] })
      ∧ (s.usbUp = false → exec .usbDisconnect s = .next s)

/-! ### The relay state machine -/

/-- The return of RESOLVE on a verdict `NEED_HDR` or `NEED_BODY` with a buffer that is not full: the wait state of
the verdict, the Forwarding registers 0 (the spec's own decision D27), nothing else changed. -/
def Obligations.ResolveWaitsForMoreBytes : Prop :=
  ∀ (c : Chan) (s : State), (s.ch c).buf.length ≠ s.params.maxPayload + 11 →
    (Codec.classify s.params.maxPayload (s.ch c).buf = .needHdr →
      exec (.resolve c) s = .next (s.setCh c
        { buf := (s.ch c).buf, st := .waitHeader, fwdOff := 0, fwdLen := 0, wr := 0 }))
      ∧ (∀ i, Codec.classify s.params.maxPayload (s.ch c).buf = .needBody i →
        exec (.resolve c) s = .next (s.setCh c
          { buf := (s.ch c).buf, st := .waitBody, fwdOff := 0, fwdLen := 0, wr := 0 }))

/-- The overrun branch: on a full buffer with verdict `NEED_HDR` or `NEED_BODY`, RESOLVE raises `BufferOverrun`,
drops the oldest byte and goes on as RESOLVE does on what is left (in the same step: the spec's own decision D7). -/
def Obligations.ResolveOverrunDropsTheOldestByte : Prop :=
  ∀ (c : Chan) (s : State), (s.ch c).buf.length = s.params.maxPayload + 11 →
    (Codec.classify s.params.maxPayload (s.ch c).buf = .needHdr
      ∨ ∃ i, Codec.classify s.params.maxPayload (s.ch c).buf = .needBody i) →
      ∃ t, exec (.resolve c) s = .next t
        ∧ exec (.resolve c) (({ s with
            diag := s.diag ++ [{ kind := .bufferOverrun, origin := originOf c }] } : State).setCh c
            { s.ch c with buf := (s.ch c).buf.drop 1, st := .waitHeader }) = .next t

/-- The malformed and the too-large branch (the byte counts are the spec's own decision D5, going on in the same
step D7): on `MALFORMED(i, L)` and `TOO_LARGE(i, L)` RESOLVE raises the fault, drops `i + 2` bytes and goes on as
RESOLVE does on what is left. -/
def Obligations.ResolveLengthFaultsDropTheMarker : Prop :=
  ∀ (c : Chan) (i L : Nat) (s : State),
    (Codec.classify s.params.maxPayload (s.ch c).buf = .malformed i L →
      ∃ t, exec (.resolve c) s = .next t
        ∧ exec (.resolve c) (({ s with
            diag := s.diag ++ [{ kind := .malformedLength, origin := originOf c }] } : State).setCh c
            { s.ch c with buf := (s.ch c).buf.drop (i + 2), st := .waitHeader }) = .next t)
      ∧ (Codec.classify s.params.maxPayload (s.ch c).buf = .tooLarge i L →
        ∃ t, exec (.resolve c) s = .next t
          ∧ exec (.resolve c) (({ s with
              diag := s.diag ++ [{ kind := .frameTooLarge, origin := originOf c }] } : State).setCh c
              { s.ch c with buf := (s.ch c).buf.drop (i + 2), st := .waitHeader }) = .next t)

/-- The checksum branch (the byte count is the spec's own decision D5, going on in the same step D7): on
`CSUM_BAD(i, L)` RESOLVE raises `ChecksumMismatch`, drops the bytes before the candidate and the whole offending
frame, and goes on as RESOLVE does on what is left. -/
def Obligations.ResolveChecksumFaultDropsTheFrame : Prop :=
  ∀ (c : Chan) (i L : Nat) (s : State),
    Codec.classify s.params.maxPayload (s.ch c).buf = .csumBad i L →
      ∃ t, exec (.resolve c) s = .next t
        ∧ exec (.resolve c) (({ s with
            diag := s.diag ++ [{ kind := .checksumMismatch, origin := originOf c }] } : State).setCh c
            { s.ch c with buf := (s.ch c).buf.drop (i + 9 + L), st := .waitHeader }) = .next t

/-- The accept branch: on `GOOD(i, L)` the channel enters `Forwarding` at the frame and the buffer is not changed. -/
def Obligations.ResolveAcceptsAGoodFrame : Prop :=
  ∀ (c : Chan) (i L : Nat) (s : State),
    Codec.classify s.params.maxPayload (s.ch c).buf = .good i L →
      exec (.resolve c) s = .next (s.setCh c
        { buf := (s.ch c).buf, st := .forwarding, fwdOff := i, fwdLen := 9 + L, wr := 0 })

/-- R176: COMPLETE drops the consumed bytes, leaves `Forwarding` with its registers 0, and runs RESOLVE. -/
def Obligations.CompleteConsumesTheFrame : Prop :=
  ∀ (c : Chan) (s : State), ∃ t, exec (.complete c) s = .next t
    ∧ exec (.resolve c) (s.setCh c
        { buf := (s.ch c).buf.drop ((s.ch c).fwdOff + (s.ch c).fwdLen), st := .waitHeader
          fwdOff := 0, fwdLen := 0, wr := 0 }) = .next t

/-- R187, over any buffer of at most `CAP` bytes (StepKeepsTheRelayInvariant): RESOLVE returns, has only removed
bytes from the front, and leaves the channel in a wait state or `Forwarding` as the channel's invariant says. -/
def Obligations.ResolveSettlesTheChannel : Prop :=
  ∀ (c : Chan) (s : State), (s.ch c).buf.length ≤ s.params.maxPayload + 11 →
    ∃ (t : State) (m : Nat), exec (.resolve c) s = .next t
      ∧ ChannelInv t.params (t.ch c) ∧ t.params = s.params
      ∧ (t.ch c).buf = (s.ch c).buf.drop m
      ∧ (t.ch c).wr = 0

/-- R184: with a full buffer and verdict `NEED_BODY(i)` the candidate is not at the front, so an overrun drops no
byte of it. -/
def Obligations.OverrunSparesTheCandidate : Prop :=
  ∀ (p : Params) (B : List Byte) (i : Nat), B.length = p.maxPayload + 11 →
    Codec.classify p.maxPayload B = .needBody i → 1 ≤ i

/-- One RESOLVE raises protocol faults only, and `BufferOverrun` only as the first of them. -/
def Obligations.OverrunIsOnlyTheFirstFault : Prop :=
  ∀ (c : Chan) (s : State), (s.ch c).buf.length ≤ s.params.maxPayload + 11 →
    ∃ (t : State) (ks : List DiagKind), exec (.resolve c) s = .next t
      ∧ t.diag = s.diag ++ ks.map (fun k => { kind := k, origin := originOf c })
      ∧ (∀ k ∈ ks, k = .malformedLength ∨ k = .checksumMismatch ∨ k = .frameTooLarge ∨ k = .bufferOverrun)
      ∧ DiagKind.bufferOverrun ∉ ks.tail

/-- Why passthrough equals re-encoding: the bytes of an accepted frame are the encoding of the frame DECODE returns
from the same buffer. -/
def Obligations.PassthroughIsReencoding : Prop :=
  ∀ (m i L : Nat) (B : List Byte), Codec.classify m B = .good i L →
    ∃ f : Codec.Frame, Codec.decode m B = .ok f i (i + 9 + L)
      ∧ (B.drop i).take (9 + L) = Codec.encodeFrame f.addr f.ptype f.payload

/-- R185: garbage without a marker and then one frame, fed to a channel in its reset state in any arrivals and any
chunks, with timeouts anywhere: the frame alone is accepted, its bytes alone reach the sink, and the records beside
timeouts are exactly `max(0, |G| + |F| - CAP)` overruns. -/
def Obligations.GarbageThenFrameYieldsTheFrame : Prop :=
  ∀ (c : Chan) (G : List Byte) (a : Addr) (t : Byte) (P : List Byte) (is : List Instr) (s u : State),
    P.length ≤ s.params.maxPayload → (∀ i, ¬ MarkerAt G i) →
    s.ch c = Channel.reset → s.pend c = [] →
    (∀ i ∈ is, Feeds c i) → AllEnabled is s → arrivals is = G ++ Codec.encodeFrame a t P →
    follow is s = .next u → u.pend c = [] →
      (u.ch c).st = .forwarding ∧ (u.ch c).wr = 0
        ∧ ((u.ch c).buf.drop (u.ch c).fwdOff).take (u.ch c).fwdLen = Codec.encodeFrame a t P
        ∧ u.sink c = s.sink c
        ∧ (∃ rs, u.diag = s.diag ++ rs
            ∧ rs.filter (fun r => decide (r.kind ≠ .transportTimeout))
              = List.replicate (G.length + (11 + P.length) - (s.params.maxPayload + 11))
                  { kind := .bufferOverrun, origin := originOf c })
        ∧ (u.sinkUp c = true →
            exec (.send c (u.ch c).fwdLen) u
              = .next ((u.emit c (Codec.encodeFrame a t P)).setCh c Channel.reset))

/-- Independence of the channels, of the monitor and of their faults: a channel's steps and procedures, and a frame
    or the bare marker arriving on it, change only that channel, its source, its sink, and records that name it. The
    model's own: the rows SYNC, CMD, DATA, ACK, EOD and TYPE_OTHER are read as notes/assumptions/7.md says, and
    `schedule`, `result` and `marks` are the model's fields (notes/assumptions/4.md, 5.md and 6.md). -/
def Obligations.ChannelOperationsKeepTheRest : Prop :=
  ∀ (c : Chan) (i : Instr) (s t : State),
    ((∃ k, i = .recv c k) ∨ i = .timeout c ∨ (∃ k, i = .send c k) ∨ i = .resolve c ∨ i = .complete c
      ∨ i = .sync c ∨ (∃ a P, i = .cmd c a P) ∨ (∃ a P, i = .data c a P) ∨ (∃ a P, i = .ack c a P)
      ∨ (∃ a P, i = .eod c a P) ∨ (∃ y a P, i = .typeOther c y a P)) →
    exec i s = .next t →
      (∀ c', c' ≠ c → t.ch c' = s.ch c' ∧ t.pend c' = s.pend c' ∧ t.sink c' = s.sink c')
        ∧ t.params = s.params ∧ t.usbUp = s.usbUp ∧ t.evm = s.evm ∧ t.usbClosed = s.usbClosed
        ∧ t.schedule = s.schedule ∧ t.result = s.result ∧ t.marks = s.marks
        ∧ (∃ rs, t.diag = s.diag ++ rs ∧ ∀ r ∈ rs, r.origin = originOf c)
        ∧ (i = .timeout c → t.ch c = s.ch c)
        ∧ ((∃ k, i = .recv c k) ∨ i = .timeout c ∨ i = .resolve c ∨ i = .complete c → t.sink c = s.sink c)
        ∧ ((∃ k, i = .send c k) ∨ i = .timeout c ∨ i = .resolve c ∨ i = .complete c → t.pend c = s.pend c)

/-- The invariant of 10_state.md section 7, its last clause the spec's own decision D27: if both channels meet it,
so do they after any step, whatever line is scheduled. That it holds at reset is in PowerOnStateIsAtRest. -/
def Obligations.StepKeepsTheRelayInvariant : Prop :=
  ∀ s t : State, RelayInv s → step s = .next t → RelayInv t

/-! ### The event monitor -/

/-- R201: an enabled SAMPLE records the time and a changed level, and runs COMMIT in the same step. -/
def Obligations.SampleRecordsAndCommits : Prop :=
  ∀ (v : Bool) (t : Nat) (s : State), s.evm.lastT ≤ t → ∃ u, exec (.sample v t) s = .next u
    ∧ (v ≠ s.evm.cand → exec (.commit t)
        { s with evm := { s.evm with lastT := t, cand := v, candSince := t } } = .next u)
    ∧ (v = s.evm.cand → exec (.commit t) { s with evm := { s.evm with lastT := t } } = .next u)

/-- COMMIT's rule (its `>=` is the spec's own decision D17): a candidate level that differs from the debounced one
and has stood for at least `DEBOUNCE_T` is committed and runs TRANSITION; otherwise nothing changes. -/
def Obligations.CommitAfterTheDebounceWindow : Prop :=
  ∀ (t : Nat) (s : State),
    (s.evm.cand ≠ s.evm.deb → s.evm.candSince + s.params.debounceT ≤ t →
      ∃ u, exec (.commit t) s = .next u
        ∧ exec (.transition s.evm.cand) { s with evm := { s.evm with deb := s.evm.cand } } = .next u)
      ∧ ((s.evm.cand = s.evm.deb ∨ t < s.evm.candSince + s.params.debounceT) →
        exec (.commit t) s = .next s)

/-- TRANSITION's rule (its row `Released -> Touched` is the spec's own decision D16): TRANSITION enters the state of
the new level and publishes it once, over whatever the slot held. -/
def Obligations.TransitionPublishesTheNewState : Prop :=
  ∀ s : State,
    exec (.transition true) s = .next { s with evm := { s.evm with ev := .touched, slot := some .touched } }
      ∧ exec (.transition false) s
        = .next { s with evm := { s.evm with ev := .released, slot := some .released } }

/-- R204: PUBLISH fills the slot, overwriting an unread value, and changes nothing else. -/
def Obligations.PublishOverwritesTheSlot : Prop :=
  ∀ (e : EventState) (s : State),
    exec (.publish e) s = .next { s with evm := { s.evm with slot := some e } }

/-- The spec's own decision D18 (a read clears the slot): TAKE answers the slot and empties it. -/
def Obligations.TakeAnswersAndEmptiesTheSlot : Prop :=
  ∀ s : State,
    exec .take s = .next { s with result := some (.slot s.evm.slot), evm := { s.evm with slot := none } }

/-- Separation of the monitor from the relay: the monitor's operations leave both channels, their sources and sinks,
    the link and the records alone. The clauses on `schedule`, `result` and `marks` are the model's own
    (notes/assumptions/4.md, 5.md and 6.md), and the parameters stand in the state by notes/assumptions/1.md. -/
def Obligations.MonitorOperationsKeepTheRelay : Prop :=
  ∀ (i : Instr) (s t : State),
    ((∃ v x, i = .sample v x) ∨ (∃ x, i = .commit x) ∨ (∃ e, i = .publish e) ∨ (∃ d, i = .transition d)
      ∨ i = .take) →
    exec i s = .next t →
      t.h2s = s.h2s ∧ t.s2h = s.s2h ∧ t.pendH2S = s.pendH2S ∧ t.pendS2H = s.pendS2H ∧ t.usbUp = s.usbUp
        ∧ t.uartOut = s.uartOut ∧ t.usbClosed = s.usbClosed ∧ t.usbCurrent = s.usbCurrent ∧ t.diag = s.diag
        ∧ t.params = s.params ∧ t.schedule = s.schedule
        ∧ (i ≠ .take → t.result = s.result)
        ∧ ((∀ v x, i ≠ .sample v x) → t.marks = s.marks)

/-- What the spec derives of TRANSITION: `evm.ev = Touched` exactly when `evm.deb = 1`, and `cand_since` is no later
than `last_t`. Every operation keeps both but a TRANSITION run by itself, which no run of the spec has (R92;
notes/assumptions/8.md). -/
def Obligations.OperationsKeepTheMonitorInvariant : Prop :=
  ∀ (i : Instr) (s t : State), (∀ d, i ≠ .transition d) → MonitorInv s.evm → exec i s = .next t →
    MonitorInv t.evm

/-- R207: a line that is high on `[t0, t0 + h)` only, with `h < DEBOUNCE_T`, commits nothing, whatever the sample
times. -/
def Obligations.ShortPulsesAreRejected : Prop :=
  ∀ (t0 h : Nat) (xs : List (Bool × Nat)) (s : State),
    h < s.params.debounceT → s.evm.deb = false → s.evm.cand = false →
    (∀ x ∈ xs, x.1 = true ↔ t0 ≤ x.2 ∧ x.2 < t0 + h) →
    AllEnabled (xs.map fun x => Instr.sample x.1 x.2) s →
      ∃ u, follow (xs.map fun x => Instr.sample x.1 x.2) s = .next u
        ∧ u.evm.ev = s.evm.ev ∧ u.evm.deb = false ∧ u.evm.slot = s.evm.slot

/-! ### Reset, rest and the whole machine -/

/-- The spec's own decisions D34 and D36: what RESET writes, and that `uart_out` and `diag` stay. That it keeps
    `schedule`, `result` and `marks` is the model's choice (notes/assumptions/4.md, 5.md and 6.md), as is that the
    parameters stand in the state (notes/assumptions/1.md). -/
def Obligations.ResetReturnsEveryRegister : Prop :=
  ∀ s : State, ∃ t, exec .reset s = .next t
    ∧ t.h2s = { buf := [], st := .waitHeader, fwdOff := 0, fwdLen := 0, wr := 0 }
    ∧ t.s2h = { buf := [], st := .waitHeader, fwdOff := 0, fwdLen := 0, wr := 0 }
    ∧ t.pendH2S = [] ∧ t.pendS2H = [] ∧ t.usbUp = false
    ∧ t.evm = { ev := .idle, deb := false, cand := false, candSince := 0, lastT := 0, slot := none }
    ∧ t.uartOut = s.uartOut ∧ t.diag = s.diag
    ∧ (s.usbUp = true → t.usbOut = s.usbOut ++ [[]])
    ∧ (s.usbUp = false → t.usbOut = s.usbOut)
    ∧ t.params = s.params ∧ t.schedule = s.schedule ∧ t.result = s.result ∧ t.marks = s.marks

/-- The reset values (the spec's own decisions D12, D17, D18, D19 and D34; the model's own fields are empty,
notes/assumptions/4.md to 6.md): the values of the state at power-on, that it is a rest state, and that it meets the
invariants. -/
def Obligations.PowerOnStateIsAtRest : Prop :=
  (State.reset.h2s = { buf := [], st := .waitHeader, fwdOff := 0, fwdLen := 0, wr := 0 }
    ∧ State.reset.s2h = { buf := [], st := .waitHeader, fwdOff := 0, fwdLen := 0, wr := 0 }
    ∧ State.reset.usbUp = false
    ∧ State.reset.evm = { ev := .idle, deb := false, cand := false, candSince := 0, lastT := 0, slot := none }
    ∧ State.reset.pendH2S = [] ∧ State.reset.pendS2H = []
    ∧ State.reset.uartOut = [] ∧ State.reset.usbOut = [[]] ∧ State.reset.diag = []
    ∧ State.reset.schedule = [] ∧ State.reset.result = none ∧ State.reset.marks = []
    ∧ State.reset.status = { stH2S := 0b00, stS2H := 0b00, nH2S := 0, nS2H := 0, usbUp := false,
                             slotFull := false, ev := 0b00 })
    ∧ Rest State.reset ∧ RelayInv State.reset ∧ MonitorInv State.reset.evm

/-- A rest state is the spec's own decision D20: at a rest state no RECV and no SEND is enabled, and scheduling one
changes nothing. -/
def Obligations.NothingMovesAtRest : Prop :=
  ∀ (c : Chan) (k : Nat) (s : State), Rest s →
    enabled s (.recv c k) = false ∧ enabled s (.send c k) = false
      ∧ exec (.recv c k) s = .next s ∧ exec (.send c k) s = .next s

/-- Commutation, except for the interleaving of `diag`: a step of AG_H2S and a step of AG_S2H give the same state in
    either order but for how their records are interleaved (both append to `diag`, so the rule's "same state" cannot
    include it; notes/assumptions/9.md); an enabled RECV or SEND commutes with SAMPLE, TAKE and the arrival of
    bytes, and TIMEOUT with SAMPLE, TAKE and the arrival of bytes on the other channel (on its own channel an
    arrival disables it: notes/assumptions/9.md). -/
def Obligations.StepsOfDifferentAgentsCommute : Prop :=
  ∀ (i j : Instr) (s a ab b ba : State),
    exec i s = .next a → exec j a = .next ab → exec j s = .next b → exec i b = .next ba →
      (opKind i = .step .h2s → opKind j = .step .s2h →
        { ab with diag := [] } = { ba with diag := [] }
          ∧ ∀ o, ab.recordsOf o = ba.recordsOf o)
      ∧ (enabled s i = true → ((∃ c k, i = .recv c k) ∨ ∃ c k, i = .send c k) →
        ((∃ v x, j = .sample v x) ∨ j = .take ∨ (∃ C, j = .injectUart C) ∨ ∃ C, j = .injectUsb C) → ab = ba)
      ∧ (∀ c, i = .timeout c →
        ((∃ v x, j = .sample v x) ∨ j = .take ∨ (c = .h2s ∧ ∃ C, j = .injectUart C)
          ∨ (c = .s2h ∧ ∃ C, j = .injectUsb C)) → ab = ba)

/-- The traces (the spec's own decision D19 for `diag`; the marks are the model's own, notes/assumptions/6.md) are
    only appended to, whatever operation runs; a session is closed only by opening an empty one. -/
def Obligations.TracesAreOnlyAppendedTo : Prop :=
  ∀ (i : Instr) (s t : State), exec i s = .next t →
    s.uartOut <+: t.uartOut ∧ s.diag <+: t.diag ∧ s.marks <+: t.marks
      ∧ ((t.usbClosed = s.usbClosed ∧ s.usbCurrent <+: t.usbCurrent)
        ∨ (t.usbClosed = s.usbClosed ++ [s.usbCurrent] ∧ t.usbCurrent = []))

/-- The block never halts and every refusal is a mark (the spec's own decisions D20 and D38;
    notes/assumptions/6.md): no operation stops the block. That none writes the parameters or the schedule is the
    model's choice (notes/assumptions/1.md and 4.md); the schedule is no hardware's. -/
def Obligations.EveryOperationCompletes : Prop :=
  ∀ (i : Instr) (s : State), ∃ t, exec i s = .next t ∧ t.params = s.params ∧ t.schedule = s.schedule

/-! ### The rows of the packet-type map -/

/-- The packet-type map through the pseudo-step RELAY (the reading of notes/assumptions/7.md; any address and any
type are the spec's own decisions D9 and D10): a legal frame of any type that arrives on an idle channel of a
connected block is relayed to the channel's sink unchanged, and nothing else changes. -/
def Obligations.LegalFramesAreRelayedUnchanged : Prop :=
  ∀ (c : Chan) (a : Addr) (P : List Byte) (s : State),
    s.usbUp = true → s.ch c = Channel.reset → s.pend c = [] → P.length ≤ s.params.maxPayload →
      exec (.cmd c a P) s = .next (s.emit c (Codec.encodeFrame a 0x01 P))
        ∧ exec (.data c a P) s = .next (s.emit c (Codec.encodeFrame a 0x02 P))
        ∧ exec (.ack c a P) s = .next (s.emit c (Codec.encodeFrame a 0x07 P))
        ∧ exec (.eod c a P) s = .next (s.emit c (Codec.encodeFrame a 0x08 P))
        ∧ ∀ t, exec (.typeOther c t a P) s = .next (s.emit c (Codec.encodeFrame a t P))

/-- The sync marker alone (the reading of notes/assumptions/7.md): the bare marker on an idle channel of a connected
block leaves it in `WaitBody`, holding the marker. -/
def Obligations.BareMarkerOpensACandidate : Prop :=
  ∀ (c : Chan) (s : State), s.usbUp = true → s.ch c = Channel.reset → s.pend c = [] →
    exec (.sync c) s = .next (s.setCh c
      { buf := [0xEF, 0x01], st := .waitBody, fwdOff := 0, fwdLen := 0, wr := 0 })

/-- What a row of the map is (the reading of notes/assumptions/7.md): on a channel whose source's link is up, its bytes
    arrive and then enabled RECVs and SENDs of that channel run, until none is enabled any more. -/
def Obligations.FrameRowsRunTheChannelToRest : Prop :=
  ∀ (c : Chan) (i : Instr) (F : List Byte) (s : State),
    ((i = .sync c ∧ F = [0xEF, 0x01]) ∨ (∃ a P, i = .cmd c a P ∧ F = Codec.encodeFrame a 0x01 P)
      ∨ (∃ a P, i = .data c a P ∧ F = Codec.encodeFrame a 0x02 P)
      ∨ (∃ a P, i = .ack c a P ∧ F = Codec.encodeFrame a 0x07 P)
      ∨ (∃ a P, i = .eod c a P ∧ F = Codec.encodeFrame a 0x08 P)
      ∨ ∃ t a P, i = .typeOther c t a P ∧ F = Codec.encodeFrame a t P) →
    (c = .h2s → s.usbUp = true) → RelayInv s →
      ∃ (is : List Instr) (t : State), exec i s = .next t
        ∧ (∀ j ∈ is, (∃ k, j = .recv c k) ∨ ∃ k, j = .send c k)
        ∧ AllEnabled is (s.setPend c (s.pend c ++ F))
        ∧ follow is (s.setPend c (s.pend c ++ F)) = .next t
        ∧ ∀ k, enabled t (.recv c k) = false ∧ enabled t (.send c k) = false

/-- The rows of the map with the link down (the reading of notes/assumptions/7.md; that S2H goes on reading is the
    spec's own decision D11): nothing arrives from the host; a legal frame of any type from the sensor is accepted
    and held, unsent, and the bare marker opens a candidate. -/
def Obligations.FramesWhileUsbIsDown : Prop :=
  ∀ (a : Addr) (P : List Byte) (s : State), s.usbUp = false →
    (exec (.cmd .h2s a P) s = .next s ∧ exec (.data .h2s a P) s = .next s ∧ exec (.ack .h2s a P) s = .next s
      ∧ exec (.eod .h2s a P) s = .next s ∧ (∀ t, exec (.typeOther .h2s t a P) s = .next s)
      ∧ exec (.sync .h2s) s = .next s)
      ∧ (s.s2h = Channel.reset → s.pendS2H = [] →
        let held (buf : List Byte) : State :=
          { s with s2h := { buf := buf, st := .forwarding, fwdOff := 0, fwdLen := 11 + P.length, wr := 0 } }
        (P.length ≤ s.params.maxPayload →
          exec (.cmd .s2h a P) s = .next (held (Codec.encodeFrame a 0x01 P))
            ∧ exec (.data .s2h a P) s = .next (held (Codec.encodeFrame a 0x02 P))
            ∧ exec (.ack .s2h a P) s = .next (held (Codec.encodeFrame a 0x07 P))
            ∧ exec (.eod .s2h a P) s = .next (held (Codec.encodeFrame a 0x08 P))
            ∧ ∀ t, exec (.typeOther .s2h t a P) s = .next (held (Codec.encodeFrame a t P)))
          ∧ exec (.sync .s2h) s = .next { s with
            s2h := { buf := [0xEF, 0x01], st := .waitBody, fwdOff := 0, fwdLen := 0, wr := 0 } })

/-! ### Lines and steps -/

/-- The action codes (the spec's own decision D26) as the first byte of each line, the unused codes included. -/
def Obligations.ActionCodesOpenTheLines : Prop :=
  (∀ t L P, (encode (.csum t L P)).head? = some 0x00) ∧ (∀ B, (encode (.findSync B)).head? = some 0x01)
    ∧ (∀ B, (encode (.classify B)).head? = some 0x02) ∧ (∀ B, (encode (.decode B)).head? = some 0x03)
    ∧ (∀ a t P, (encode (.encode a t P)).head? = some 0x04) ∧ (∀ C, (encode (.injectUart C)).head? = some 0x05)
    ∧ (∀ C, (encode (.injectUsb C)).head? = some 0x06) ∧ (∀ c k, (encode (.recv c k)).head? = some 0x07)
    ∧ (∀ c, (encode (.timeout c)).head? = some 0x08) ∧ (∀ c k, (encode (.send c k)).head? = some 0x09)
    ∧ (encode .usbConnect).head? = some 0x0A ∧ (encode .usbDisconnect).head? = some 0x0B
    ∧ (∀ c, (encode (.resolve c)).head? = some 0x0C) ∧ (∀ c, (encode (.complete c)).head? = some 0x0D)
    ∧ (∀ v t, (encode (.sample v t)).head? = some 0x0E) ∧ (∀ t, (encode (.commit t)).head? = some 0x0F)
    ∧ (∀ e, (encode (.publish e)).head? = some 0x10) ∧ (encode .take).head? = some 0x11
    ∧ (encode .reset).head? = some 0x12 ∧ (∀ d, (encode (.transition d)).head? = some 0x13)
    ∧ decode [0x14] = .ok (.reserved14to17 0) ∧ decode [0x17] = .ok (.reserved14to17 3)
    ∧ decode [0x18] = .ok (.reserved18to1F 0) ∧ decode [0x1F] = .ok (.reserved18to1F 7)

/-- Lines written out by hand from the frame format, the action codes and the step notation (the operand layout is
notes/assumptions/2.md) decode to the operations they stand for. -/
def Obligations.WrittenLinesDecode : Prop :=
  decode [0x0A] = .ok .usbConnect
    ∧ decode [0x07, 0x00, 0x05] = .ok (.recv .h2s 5)
    ∧ decode [0x09, 0x01, 0x0C] = .ok (.send .s2h 12)
    ∧ decode [0x0E, 0x01, 0x64] = .ok (.sample true 100)
    ∧ decode [0x05, 0xEF, 0x01] = .ok (.injectUart [0xEF, 0x01])
    ∧ decode [0x12] = .ok .reset
    ∧ decode [0xEF, 0x01, 0xFF, 0xFF, 0xFF, 0xFF, 0x01, 0x00, 0x03, 0x50, 0x00, 0x54, 0x00]
        = .ok (.cmd .h2s 0xFFFFFFFF [0x50])
    ∧ decode [0xEF, 0x01, 0xFF, 0xFF, 0xFF, 0xFF, 0x01, 0x00, 0x03, 0x50, 0x00, 0x51, 0x00] = .error .badFrame

/-- Decoding the line of a well-formed operation gives the operation back, with every operand at every value (the
layout is notes/assumptions/2.md). -/
def Obligations.DecodeOfEncodedLine : Prop :=
  ∀ i : Instr, i.wf = true → decode (encode i) = .ok i

/-- A line that decodes is the line of the operation it decodes to, which is well formed: no two lines stand for one
operation (notes/assumptions/2.md). -/
def Obligations.EncodeOfDecodedLine : Prop :=
  ∀ (l : Line) (i : Instr), decode l = .ok i → i.wf = true ∧ encode i = l

/-- A step runs the operation its next line decodes to, on the state without that line; with nothing scheduled it
changes nothing; a line that does not decode is refused by name (notes/assumptions/4.md). -/
def Obligations.StepRunsTheNextLine : Prop :=
  ∀ s : State,
    (s.schedule = [] → step s = .next s)
      ∧ (∀ l rest i, s.schedule = l :: rest → decode l = .ok i → step s = exec i { s with schedule := rest })
      ∧ (∀ l rest e, s.schedule = l :: rest → decode l = .error e → step s = .refused (.undecodable e))

/-! ### Status outputs, records and sampling -/

/-- The status outputs (the spec's own decisions D21 and D27 for the list and the codes) show the registers, in every
    state: the codes of `ch.st` and `evm.ev`, the counts, which fit the width `ceil(log2(CAP + 1))` wherever the channels
    meet their invariant, the link and the slot. -/
def Obligations.StatusOutputsShowTheRegisters : Prop :=
  ∀ s : State,
    (∀ x ∈ [(ChSt.waitHeader, (0b00 : BitVec 2)), (.waitBody, 0b01), (.forwarding, 0b10), (.error, 0b11)],
      (s.h2s.st = x.1 ↔ s.status.stH2S = x.2) ∧ (s.s2h.st = x.1 ↔ s.status.stS2H = x.2))
      ∧ (∀ x ∈ [(EventState.idle, (0b00 : BitVec 2)), (.touched, 0b01), (.released, 0b10)],
        s.evm.ev = x.1 ↔ s.status.ev = x.2)
      ∧ s.status.ev ≠ 0b11
      ∧ s.status.nH2S = s.h2s.buf.length ∧ s.status.nS2H = s.s2h.buf.length
      ∧ s.status.usbUp = s.usbUp
      ∧ (s.status.slotFull = true ↔ ∃ e, s.evm.slot = some e)
      ∧ (2 ^ (nWidth s.params - 1) < s.params.maxPayload + 12 ∧ s.params.maxPayload + 12 ≤ 2 ^ nWidth s.params)
      ∧ (RelayInv s → s.status.nH2S < 2 ^ nWidth s.params ∧ s.status.nS2H < 2 ^ nWidth s.params
        ∧ s.status.stH2S ≠ 0b11 ∧ s.status.stS2H ≠ 0b11)

/-- The diagnostic records (their codes are the spec's own decision D19): the code of every fault and the number of every
    place it can arise, and, over every operation, that the records it appends name the link exactly for
    `TransportDisconnected`, that only USB_DISCONNECT appends that one, and only TIMEOUT a `TransportTimeout`.  For the
    rows of the packet-type map this is the reading of notes/assumptions/7.md. -/
def Obligations.RecordsCarryTheirCodes : Prop :=
  (∀ x ∈ [(DiagKind.malformedLength, (0x1 : BitVec 4)), (.checksumMismatch, 0x2), (.frameTooLarge, 0x3),
      (.bufferOverrun, 0x4), (.transportTimeout, 0x5), (.transportDisconnected, 0x6)],
    ∀ y ∈ [(Origin.h2s, 0), (.s2h, 1), (.usb, 2)],
      DiagRecord.codes { kind := x.1, origin := y.1 } = (x.2, y.2))
    ∧ (∀ q : DiagRecord, 0x1 ≤ q.codes.1.toNat ∧ q.codes.1.toNat ≤ 0x6 ∧ q.codes.2 ≤ 2)
    ∧ ∀ (i : Instr) (s t : State), exec i s = .next t → ∃ rs, t.diag = s.diag ++ rs
      ∧ ∀ q ∈ rs, (q.kind = .transportDisconnected ↔ q.origin = .usb)
        ∧ (q.kind = .transportDisconnected → i = .usbDisconnect)
        ∧ (q.kind = .transportTimeout → ∃ c, i = .timeout c)

/-- The debounce window under the premise `SAMPLED(p)` (the spec's own decisions D17 and D20; why the bound is
    `DEBOUNCE_T + p` after the change and no less is notes/assumptions/9.md): if consecutive samples, the one before them
    included, are at most `p` apart and every sample from time `a` on shows level `v`, then once there has been a sample
    at or after `a + p + DEBOUNCE_T` the level is committed. -/
def Obligations.StableLevelsAreCommitted : Prop :=
  ∀ (v : Bool) (p a : Nat) (xs : List (Bool × Nat)) (s : State),
    MonitorInv s.evm → s.evm.lastT ≤ a → GapsWithin p (s.evm.lastT :: xs.map Prod.snd) →
    AllEnabled (xs.map fun x => Instr.sample x.1 x.2) s →
    (∀ x ∈ xs, a ≤ x.2 → x.1 = v) → (∃ x ∈ xs, a + p + s.params.debounceT ≤ x.2) →
      ∃ u, follow (xs.map fun x => Instr.sample x.1 x.2) s = .next u
        ∧ u.evm.deb = v ∧ (u.evm.ev = .touched ↔ v = true)

/-! ### Commutation -/

/-- R235's commutation (the reading of notes/assumptions/9.md): an enabled step of channel `c` and any other enabled step,
    save the channel's own steps and those that change the link, leave in either order the same block state `S`
    (10_state.md section 1), the same sources and outputs, and the same everything else but `diag`.  Of `diag` they leave
    the same records of each writer wherever both orders are runs of enabled steps, and the same list where the other
    step is no channel step; two channels' records stand in the order of the steps, and a TIMEOUT records nothing once
    bytes have arrived on its channel.  And what a channel emits in each session, with the channel and its source, is
    fixed by the steps that bear on it. -/
def Obligations.ChannelStepsCommute : Prop :=
  (∀ (c : Chan) (i j : Instr) (s a ab b ba : State),
    opKind i = .step (agentOf c) → enabled s i = true → enabled s j = true →
    opKind j ≠ .step (agentOf c) → changesLink j = false →
    exec i s = .next a → exec j a = .next ab → exec j s = .next b → exec i b = .next ba →
      ab.block = ba.block
        ∧ { ab with diag := [] } = { ba with diag := [] }
        ∧ (¬ (i = .timeout c ∧ ArrivesOn c j) →
          ∀ o, ab.recordsOf o = ba.recordsOf o)
        ∧ (enabled a j = true → enabled b i = true → ∀ o, ab.recordsOf o = ba.recordsOf o)
        ∧ ((∀ c', opKind j ≠ .step (agentOf c')) → ¬ (i = .timeout c ∧ ArrivesOn c j) → ab = ba)
        ∧ (i = .timeout c → ArrivesOn c j →
          ab.diag = ba.diag ++ [{ kind := .transportTimeout, origin := originOf c }]))
    ∧ ∀ (c : Chan) (is js : List Instr) (s u v : State),
      (∀ i ∈ is ++ js, ∃ g, opKind i = .step g) →
      is.filter (bearsOn c) = js.filter (bearsOn c) →
      follow is s = .next u → follow js s = .next v →
        emitted u c = emitted v c ∧ u.ch c = v.ch c ∧ u.pend c = v.pend c
end

