-- ==== Sys2Proof/Laws/Codec.lean ====
section
/-! SUPPORT. Lemmas of the codec: where a marker can be, how far a verdict reaches, and the inversion of
`classify`. -/

namespace Sys2Proof.Codec

open Sys2Proof

/-- A marker needs two bytes. -/
theorem findSync_bound {B : List Byte} {i : Nat} (h : findSync B = some i) : i + 2 ≤ B.length := by
  induction B using findSync.induct generalizing i with
  | case1 => simp [findSync] at h
  | case2 => simp [findSync] at h
  | case3 a b rest hm =>
    simp only [findSync, hm, and_self, if_true, Option.some.injEq] at h
    subst h; simp
  | case4 a b rest hm ih =>
    simp only [findSync, hm, if_false, Option.map_eq_some_iff] at h
    obtain ⟨j, hj, rfl⟩ := h
    have := ih hj
    simp only [List.length_cons] at this ⊢
    omega

/-- Later bytes do not move the first marker. -/
theorem findSync_append {B : List Byte} {i : Nat} (T : List Byte) (h : findSync B = some i) :
    findSync (B ++ T) = some i := by
  induction B using findSync.induct generalizing i with
  | case1 => simp [findSync] at h
  | case2 => simp [findSync] at h
  | case3 a b rest hm => simpa [findSync, hm] using h
  | case4 a b rest hm ih =>
    simp only [findSync, hm, if_false, Option.map_eq_some_iff] at h
    obtain ⟨j, hj, rfl⟩ := h
    have := ih hj
    simp only [List.cons_append] at this ⊢
    simp only [findSync, hm, if_false, Option.map_eq_some_iff]
    exact ⟨j, this, rfl⟩

theorem be16_lt (a b : Byte) : be16 a b < 65536 := by
  have := a.isLt
  have := b.isLt
  unfold be16
  omega

/-- The first byte of a 16-bit value is its quotient by 256. -/
theorem hi8_toNat (v : Half) : (hi8 v).toNat = v.toNat / 256 := by
  have := v.isLt
  simp [hi8, BitVec.extractLsb'_toNat, Nat.shiftRight_eq_div_pow]
  omega

/-- The second byte of a 16-bit value is its remainder by 256. -/
theorem lo8_toNat (v : Half) : (lo8 v).toNat = v.toNat % 256 := by
  simp [lo8, BitVec.extractLsb'_toNat]

/-- The two bytes of a 16-bit value make it up again. -/
theorem be16_hi8_lo8 (v : Half) : be16 (hi8 v) (lo8 v) = v.toNat := by
  rw [be16, hi8_toNat, lo8_toNat]
  omega

/-- What a verdict says of the buffer: the inversion of `CLASSIFY` (R112). -/
theorem classify_cases (m : Nat) (B : List Byte) :
    (findSync B = none ∧ classify m B = .needHdr)
      ∨ (∃ i, findSync B = some i ∧ classify m B = .needBody i)
      ∨ (∃ i, findSync B = some i ∧ i + 9 ≤ B.length ∧ lenAt B i < 2 ∧ classify m B = .malformed i (lenAt B i))
      ∨ (∃ i, findSync B = some i ∧ i + 9 ≤ B.length ∧ 2 ≤ lenAt B i ∧ m < lenAt B i - 2
          ∧ classify m B = .tooLarge i (lenAt B i))
      ∨ (∃ i, findSync B = some i ∧ 2 ≤ lenAt B i ∧ lenAt B i - 2 ≤ m ∧ i + 9 + lenAt B i ≤ B.length
          ∧ rxAt B i (lenAt B i) ≠ csumAt B i (lenAt B i) ∧ classify m B = .csumBad i (lenAt B i))
      ∨ (∃ i, findSync B = some i ∧ 2 ≤ lenAt B i ∧ lenAt B i - 2 ≤ m ∧ i + 9 + lenAt B i ≤ B.length
          ∧ rxAt B i (lenAt B i) = csumAt B i (lenAt B i) ∧ classify m B = .good i (lenAt B i)) := by
  unfold classify
  cases h : findSync B with
  | none => exact .inl ⟨rfl, rfl⟩
  | some i =>
    have hb := findSync_bound h
    right
    simp only [classifyAt]
    split
    · exact .inl ⟨i, rfl, rfl⟩
    split
    · exact .inr (.inl ⟨i, rfl, by omega, by assumption, rfl⟩)
    split
    · exact .inr (.inr (.inl ⟨i, rfl, by omega, by omega, by omega, rfl⟩))
    split
    · exact .inl ⟨i, rfl, rfl⟩
    split
    · exact .inr (.inr (.inr (.inl ⟨i, rfl, by omega, by omega, by omega, by assumption, rfl⟩)))
    · exact .inr (.inr (.inr (.inr ⟨i, rfl, by omega, by omega, by omega, by simp_all, rfl⟩)))

/-- How many bytes a fault verdict drops is at least 1 and no more than there are. -/
theorem classify_malformed_bound {m i L : Nat} {B : List Byte} (h : classify m B = .malformed i L) :
    i + 9 ≤ B.length ∧ L < 2 := by
  rcases classify_cases m B with h' | ⟨j, h'⟩ | ⟨j, h'⟩ | ⟨j, h'⟩ | ⟨j, h'⟩ | ⟨j, h'⟩ <;> simp_all
  obtain ⟨rfl, rfl⟩ := h
  simp_all

theorem classify_tooLarge_bound {m i L : Nat} {B : List Byte} (h : classify m B = .tooLarge i L) :
    i + 9 ≤ B.length ∧ 2 ≤ L ∧ m < L - 2 := by
  rcases classify_cases m B with h' | ⟨j, h'⟩ | ⟨j, h'⟩ | ⟨j, h'⟩ | ⟨j, h'⟩ | ⟨j, h'⟩ <;> simp_all
  obtain ⟨rfl, rfl⟩ := h
  simp_all

theorem classify_csumBad_bound {m i L : Nat} {B : List Byte} (h : classify m B = .csumBad i L) :
    i + 9 + L ≤ B.length ∧ 2 ≤ L ∧ L - 2 ≤ m := by
  rcases classify_cases m B with h' | ⟨j, h'⟩ | ⟨j, h'⟩ | ⟨j, h'⟩ | ⟨j, h'⟩ | ⟨j, h'⟩ <;> simp_all
  obtain ⟨rfl, rfl⟩ := h
  simp_all

theorem classify_good_bound {m i L : Nat} {B : List Byte} (h : classify m B = .good i L) :
    i + 9 + L ≤ B.length ∧ 2 ≤ L ∧ L - 2 ≤ m := by
  rcases classify_cases m B with h' | ⟨j, h'⟩ | ⟨j, h'⟩ | ⟨j, h'⟩ | ⟨j, h'⟩ | ⟨j, h'⟩ <;> simp_all
  obtain ⟨rfl, rfl⟩ := h
  simp_all

@[simp] theorem addrBytes_length (a : Addr) : (addrBytes a).length = 4 := rfl

/-- The length of an encoded frame (R87, R114). -/
@[simp] theorem encodeFrame_length (a : Addr) (t : Byte) (P : List Byte) :
    (encodeFrame a t P).length = 11 + P.length := by
  simp [encodeFrame]
  omega

/-- An encoded frame begins with the sync marker. -/
theorem findSync_encodeFrame (a : Addr) (t : Byte) (P : List Byte) : findSync (encodeFrame a t P) = some 0 := by
  simp [encodeFrame, findSync]

/-- `CSUM` as a natural (R110). -/
theorem csum_toNat (t : Byte) (L : Half) (P : List Byte) :
    (csum t L P).toNat = (t.toNat + L.toNat / 256 + L.toNat % 256 + sumBytes P) % 65536 := by
  simp [csum, hi8_toNat, lo8_toNat]

end Sys2Proof.Codec
end

