-- ==== Sys2Proof/Laws/State.lean ====
section
/-! SUPPORT. The small lemmas of the state's accessors and updates: one per field per update. -/

namespace Sys2Proof.Machine.State

open Sys2Proof

/-! ### Reading back what was written -/

@[simp] theorem ch_setCh (s : State) (c : Chan) (x : Channel) : (s.setCh c x).ch c = x := by cases c <;> rfl

theorem ch_setCh_of_ne (s : State) (c c' : Chan) (x : Channel) (h : c' ≠ c) :
    (s.setCh c x).ch c' = s.ch c' := by cases c <;> cases c' <;> first | rfl | exact absurd rfl h

@[simp] theorem pend_setPend (s : State) (c : Chan) (B : List Byte) : (s.setPend c B).pend c = B := by
  cases c <;> rfl

theorem pend_setPend_of_ne (s : State) (c c' : Chan) (B : List Byte) (h : c' ≠ c) :
    (s.setPend c B).pend c' = s.pend c' := by cases c <;> cases c' <;> first | rfl | exact absurd rfl h

@[simp] theorem sink_emit (s : State) (c : Chan) (C : List Byte) : (s.emit c C).sink c = s.sink c ++ C := by
  cases c <;> rfl

theorem sink_emit_of_ne (s : State) (c c' : Chan) (C : List Byte) (h : c' ≠ c) :
    (s.emit c C).sink c' = s.sink c' := by cases c <;> cases c' <;> first | rfl | exact absurd rfl h

@[simp] theorem setCh_setCh (s : State) (c : Chan) (x y : Channel) : (s.setCh c x).setCh c y = s.setCh c y := by
  cases c <;> rfl

@[simp] theorem setCh_ch (s : State) (c : Chan) : s.setCh c (s.ch c) = s := by cases c <;> rfl

@[simp] theorem setPend_setPend (s : State) (c : Chan) (A B : List Byte) :
    (s.setPend c A).setPend c B = s.setPend c B := by cases c <;> rfl

@[simp] theorem setPend_pend (s : State) (c : Chan) : s.setPend c (s.pend c) = s := by cases c <;> rfl

@[simp] theorem emit_emit (s : State) (c : Chan) (A B : List Byte) : (s.emit c A).emit c B = s.emit c (A ++ B) := by
  cases c <;> simp [emit]

@[simp] theorem raise_raise (s : State) (ks js : List DiagKind) (w : Origin) :
    (s.raise ks w).raise js w = s.raise (ks ++ js) w := by simp [raise]

@[simp] theorem raise_nil (s : State) (w : Origin) : s.raise [] w = s := by simp [raise]

/-! ### Updates of different parts change places -/

theorem raise_setCh (s : State) (c : Chan) (x : Channel) (ks : List DiagKind) (w : Origin) :
    (s.raise ks w).setCh c x = (s.setCh c x).raise ks w := by cases c <;> rfl

theorem setPend_setCh (s : State) (c c' : Chan) (B : List Byte) (x : Channel) :
    (s.setPend c B).setCh c' x = (s.setCh c' x).setPend c B := by cases c <;> cases c' <;> rfl

theorem emit_setCh (s : State) (c c' : Chan) (C : List Byte) (x : Channel) :
    (s.emit c C).setCh c' x = (s.setCh c' x).emit c C := by cases c <;> cases c' <;> rfl

/-! ### What leaves the block's own state `S` (R20) alone -/

@[simp] theorem block_raise (s : State) (ks : List DiagKind) (w : Origin) : (s.raise ks w).block = s.block := rfl
@[simp] theorem block_setPend (s : State) (c : Chan) (B : List Byte) : (s.setPend c B).block = s.block := by
  cases c <;> rfl
@[simp] theorem block_emit (s : State) (c : Chan) (C : List Byte) : (s.emit c C).block = s.block := by
  cases c <;> rfl
@[simp] theorem block_answer (s : State) (x : Result) : (s.answer x).block = s.block := rfl
@[simp] theorem block_refuse (s : State) (m : Mark) : (s.refuse m).block = s.block := rfl

/-! ### The records of one origin -/

/-- A fault leaves the records of every other origin alone. -/
theorem recordsOf_raise_of_ne (s : State) (ks : List DiagKind) (w o : Origin) (h : o ≠ w) :
    (s.raise ks w).recordsOf o = s.recordsOf o := by
  simp [recordsOf, raise, List.filter_map, Function.comp_def, h.symm]

theorem recordsOf_raise (s : State) (ks : List DiagKind) (w : Origin) :
    (s.raise ks w).recordsOf w = s.recordsOf w ++ ks.map fun k => { kind := k, origin := w } := by
  simp [recordsOf, raise, List.filter_map, Function.comp_def]

@[simp] theorem recordsOf_setCh (s : State) (c : Chan) (x : Channel) (o : Origin) :
    (s.setCh c x).recordsOf o = s.recordsOf o := by cases c <;> rfl
@[simp] theorem recordsOf_setPend (s : State) (c : Chan) (B : List Byte) (o : Origin) :
    (s.setPend c B).recordsOf o = s.recordsOf o := by cases c <;> rfl
@[simp] theorem recordsOf_emit (s : State) (c : Chan) (C : List Byte) (o : Origin) :
    (s.emit c C).recordsOf o = s.recordsOf o := by cases c <;> rfl

/-! ### What `setCh` leaves -/

@[simp] theorem params_setCh (s : State) (c : Chan) (x : Channel) : (s.setCh c x).params = s.params := by cases c <;> rfl
@[simp] theorem usbUp_setCh (s : State) (c : Chan) (x : Channel) : (s.setCh c x).usbUp = s.usbUp := by cases c <;> rfl
@[simp] theorem evm_setCh (s : State) (c : Chan) (x : Channel) : (s.setCh c x).evm = s.evm := by cases c <;> rfl
@[simp] theorem pendH2S_setCh (s : State) (c : Chan) (x : Channel) : (s.setCh c x).pendH2S = s.pendH2S := by cases c <;> rfl
@[simp] theorem pendS2H_setCh (s : State) (c : Chan) (x : Channel) : (s.setCh c x).pendS2H = s.pendS2H := by cases c <;> rfl
@[simp] theorem uartOut_setCh (s : State) (c : Chan) (x : Channel) : (s.setCh c x).uartOut = s.uartOut := by cases c <;> rfl
@[simp] theorem usbClosed_setCh (s : State) (c : Chan) (x : Channel) : (s.setCh c x).usbClosed = s.usbClosed := by cases c <;> rfl
@[simp] theorem usbCurrent_setCh (s : State) (c : Chan) (x : Channel) : (s.setCh c x).usbCurrent = s.usbCurrent := by cases c <;> rfl
@[simp] theorem diag_setCh (s : State) (c : Chan) (x : Channel) : (s.setCh c x).diag = s.diag := by cases c <;> rfl
@[simp] theorem schedule_setCh (s : State) (c : Chan) (x : Channel) : (s.setCh c x).schedule = s.schedule := by cases c <;> rfl
@[simp] theorem result_setCh (s : State) (c : Chan) (x : Channel) : (s.setCh c x).result = s.result := by cases c <;> rfl
@[simp] theorem marks_setCh (s : State) (c : Chan) (x : Channel) : (s.setCh c x).marks = s.marks := by cases c <;> rfl
@[simp] theorem pend_setCh (s : State) (c : Chan) (x : Channel) (c' : Chan) : (s.setCh c x).pend c' = s.pend c' := by
  cases c <;> cases c' <;> rfl
@[simp] theorem sink_setCh (s : State) (c : Chan) (x : Channel) (c' : Chan) : (s.setCh c x).sink c' = s.sink c' := by
  cases c <;> cases c' <;> rfl
@[simp] theorem sourceUp_setCh (s : State) (c : Chan) (x : Channel) (c' : Chan) : (s.setCh c x).sourceUp c' = s.sourceUp c' := by
  cases c <;> cases c' <;> rfl
@[simp] theorem sinkUp_setCh (s : State) (c : Chan) (x : Channel) (c' : Chan) : (s.setCh c x).sinkUp c' = s.sinkUp c' := by
  cases c <;> cases c' <;> rfl

/-! ### What `setPend` leaves -/

@[simp] theorem params_setPend (s : State) (c : Chan) (B : List Byte) : (s.setPend c B).params = s.params := by cases c <;> rfl
@[simp] theorem h2s_setPend (s : State) (c : Chan) (B : List Byte) : (s.setPend c B).h2s = s.h2s := by cases c <;> rfl
@[simp] theorem s2h_setPend (s : State) (c : Chan) (B : List Byte) : (s.setPend c B).s2h = s.s2h := by cases c <;> rfl
@[simp] theorem usbUp_setPend (s : State) (c : Chan) (B : List Byte) : (s.setPend c B).usbUp = s.usbUp := by cases c <;> rfl
@[simp] theorem evm_setPend (s : State) (c : Chan) (B : List Byte) : (s.setPend c B).evm = s.evm := by cases c <;> rfl
@[simp] theorem uartOut_setPend (s : State) (c : Chan) (B : List Byte) : (s.setPend c B).uartOut = s.uartOut := by cases c <;> rfl
@[simp] theorem usbClosed_setPend (s : State) (c : Chan) (B : List Byte) : (s.setPend c B).usbClosed = s.usbClosed := by cases c <;> rfl
@[simp] theorem usbCurrent_setPend (s : State) (c : Chan) (B : List Byte) : (s.setPend c B).usbCurrent = s.usbCurrent := by cases c <;> rfl
@[simp] theorem diag_setPend (s : State) (c : Chan) (B : List Byte) : (s.setPend c B).diag = s.diag := by cases c <;> rfl
@[simp] theorem schedule_setPend (s : State) (c : Chan) (B : List Byte) : (s.setPend c B).schedule = s.schedule := by cases c <;> rfl
@[simp] theorem result_setPend (s : State) (c : Chan) (B : List Byte) : (s.setPend c B).result = s.result := by cases c <;> rfl
@[simp] theorem marks_setPend (s : State) (c : Chan) (B : List Byte) : (s.setPend c B).marks = s.marks := by cases c <;> rfl
@[simp] theorem ch_setPend (s : State) (c : Chan) (B : List Byte) (c' : Chan) : (s.setPend c B).ch c' = s.ch c' := by
  cases c <;> cases c' <;> rfl
@[simp] theorem sink_setPend (s : State) (c : Chan) (B : List Byte) (c' : Chan) : (s.setPend c B).sink c' = s.sink c' := by
  cases c <;> cases c' <;> rfl
@[simp] theorem sourceUp_setPend (s : State) (c : Chan) (B : List Byte) (c' : Chan) : (s.setPend c B).sourceUp c' = s.sourceUp c' := by
  cases c <;> cases c' <;> rfl
@[simp] theorem sinkUp_setPend (s : State) (c : Chan) (B : List Byte) (c' : Chan) : (s.setPend c B).sinkUp c' = s.sinkUp c' := by
  cases c <;> cases c' <;> rfl

/-! ### What `emit` leaves -/

@[simp] theorem params_emit (s : State) (c : Chan) (C : List Byte) : (s.emit c C).params = s.params := by cases c <;> rfl
@[simp] theorem h2s_emit (s : State) (c : Chan) (C : List Byte) : (s.emit c C).h2s = s.h2s := by cases c <;> rfl
@[simp] theorem s2h_emit (s : State) (c : Chan) (C : List Byte) : (s.emit c C).s2h = s.s2h := by cases c <;> rfl
@[simp] theorem usbUp_emit (s : State) (c : Chan) (C : List Byte) : (s.emit c C).usbUp = s.usbUp := by cases c <;> rfl
@[simp] theorem evm_emit (s : State) (c : Chan) (C : List Byte) : (s.emit c C).evm = s.evm := by cases c <;> rfl
@[simp] theorem pendH2S_emit (s : State) (c : Chan) (C : List Byte) : (s.emit c C).pendH2S = s.pendH2S := by cases c <;> rfl
@[simp] theorem pendS2H_emit (s : State) (c : Chan) (C : List Byte) : (s.emit c C).pendS2H = s.pendS2H := by cases c <;> rfl
@[simp] theorem usbClosed_emit (s : State) (c : Chan) (C : List Byte) : (s.emit c C).usbClosed = s.usbClosed := by cases c <;> rfl
@[simp] theorem diag_emit (s : State) (c : Chan) (C : List Byte) : (s.emit c C).diag = s.diag := by cases c <;> rfl
@[simp] theorem schedule_emit (s : State) (c : Chan) (C : List Byte) : (s.emit c C).schedule = s.schedule := by cases c <;> rfl
@[simp] theorem result_emit (s : State) (c : Chan) (C : List Byte) : (s.emit c C).result = s.result := by cases c <;> rfl
@[simp] theorem marks_emit (s : State) (c : Chan) (C : List Byte) : (s.emit c C).marks = s.marks := by cases c <;> rfl
@[simp] theorem ch_emit (s : State) (c : Chan) (C : List Byte) (c' : Chan) : (s.emit c C).ch c' = s.ch c' := by
  cases c <;> cases c' <;> rfl
@[simp] theorem pend_emit (s : State) (c : Chan) (C : List Byte) (c' : Chan) : (s.emit c C).pend c' = s.pend c' := by
  cases c <;> cases c' <;> rfl
@[simp] theorem sourceUp_emit (s : State) (c : Chan) (C : List Byte) (c' : Chan) : (s.emit c C).sourceUp c' = s.sourceUp c' := by
  cases c <;> cases c' <;> rfl
@[simp] theorem sinkUp_emit (s : State) (c : Chan) (C : List Byte) (c' : Chan) : (s.emit c C).sinkUp c' = s.sinkUp c' := by
  cases c <;> cases c' <;> rfl

/-! ### What `raise` leaves -/

@[simp] theorem params_raise (s : State) (ks : List DiagKind) (w : Origin) : (s.raise ks w).params = s.params := rfl
@[simp] theorem h2s_raise (s : State) (ks : List DiagKind) (w : Origin) : (s.raise ks w).h2s = s.h2s := rfl
@[simp] theorem s2h_raise (s : State) (ks : List DiagKind) (w : Origin) : (s.raise ks w).s2h = s.s2h := rfl
@[simp] theorem usbUp_raise (s : State) (ks : List DiagKind) (w : Origin) : (s.raise ks w).usbUp = s.usbUp := rfl
@[simp] theorem evm_raise (s : State) (ks : List DiagKind) (w : Origin) : (s.raise ks w).evm = s.evm := rfl
@[simp] theorem pendH2S_raise (s : State) (ks : List DiagKind) (w : Origin) : (s.raise ks w).pendH2S = s.pendH2S := rfl
@[simp] theorem pendS2H_raise (s : State) (ks : List DiagKind) (w : Origin) : (s.raise ks w).pendS2H = s.pendS2H := rfl
@[simp] theorem uartOut_raise (s : State) (ks : List DiagKind) (w : Origin) : (s.raise ks w).uartOut = s.uartOut := rfl
@[simp] theorem usbClosed_raise (s : State) (ks : List DiagKind) (w : Origin) : (s.raise ks w).usbClosed = s.usbClosed := rfl
@[simp] theorem usbCurrent_raise (s : State) (ks : List DiagKind) (w : Origin) : (s.raise ks w).usbCurrent = s.usbCurrent := rfl
@[simp] theorem schedule_raise (s : State) (ks : List DiagKind) (w : Origin) : (s.raise ks w).schedule = s.schedule := rfl
@[simp] theorem result_raise (s : State) (ks : List DiagKind) (w : Origin) : (s.raise ks w).result = s.result := rfl
@[simp] theorem marks_raise (s : State) (ks : List DiagKind) (w : Origin) : (s.raise ks w).marks = s.marks := rfl
@[simp] theorem ch_raise (s : State) (ks : List DiagKind) (w : Origin) (c' : Chan) : (s.raise ks w).ch c' = s.ch c' := by
  cases c' <;> rfl
@[simp] theorem pend_raise (s : State) (ks : List DiagKind) (w : Origin) (c' : Chan) : (s.raise ks w).pend c' = s.pend c' := by
  cases c' <;> rfl
@[simp] theorem sink_raise (s : State) (ks : List DiagKind) (w : Origin) (c' : Chan) : (s.raise ks w).sink c' = s.sink c' := by
  cases c' <;> rfl
@[simp] theorem sourceUp_raise (s : State) (ks : List DiagKind) (w : Origin) (c' : Chan) : (s.raise ks w).sourceUp c' = s.sourceUp c' := by
  cases c' <;> rfl
@[simp] theorem sinkUp_raise (s : State) (ks : List DiagKind) (w : Origin) (c' : Chan) : (s.raise ks w).sinkUp c' = s.sinkUp c' := by
  cases c' <;> rfl

/-! ### What `refuse` leaves -/

@[simp] theorem params_refuse (s : State) (m : Mark) : (s.refuse m).params = s.params := rfl
@[simp] theorem h2s_refuse (s : State) (m : Mark) : (s.refuse m).h2s = s.h2s := rfl
@[simp] theorem s2h_refuse (s : State) (m : Mark) : (s.refuse m).s2h = s.s2h := rfl
@[simp] theorem usbUp_refuse (s : State) (m : Mark) : (s.refuse m).usbUp = s.usbUp := rfl
@[simp] theorem evm_refuse (s : State) (m : Mark) : (s.refuse m).evm = s.evm := rfl
@[simp] theorem pendH2S_refuse (s : State) (m : Mark) : (s.refuse m).pendH2S = s.pendH2S := rfl
@[simp] theorem pendS2H_refuse (s : State) (m : Mark) : (s.refuse m).pendS2H = s.pendS2H := rfl
@[simp] theorem uartOut_refuse (s : State) (m : Mark) : (s.refuse m).uartOut = s.uartOut := rfl
@[simp] theorem usbClosed_refuse (s : State) (m : Mark) : (s.refuse m).usbClosed = s.usbClosed := rfl
@[simp] theorem usbCurrent_refuse (s : State) (m : Mark) : (s.refuse m).usbCurrent = s.usbCurrent := rfl
@[simp] theorem diag_refuse (s : State) (m : Mark) : (s.refuse m).diag = s.diag := rfl
@[simp] theorem schedule_refuse (s : State) (m : Mark) : (s.refuse m).schedule = s.schedule := rfl
@[simp] theorem result_refuse (s : State) (m : Mark) : (s.refuse m).result = s.result := rfl
@[simp] theorem ch_refuse (s : State) (m : Mark) (c' : Chan) : (s.refuse m).ch c' = s.ch c' := by
  cases c' <;> rfl
@[simp] theorem pend_refuse (s : State) (m : Mark) (c' : Chan) : (s.refuse m).pend c' = s.pend c' := by
  cases c' <;> rfl
@[simp] theorem sink_refuse (s : State) (m : Mark) (c' : Chan) : (s.refuse m).sink c' = s.sink c' := by
  cases c' <;> rfl
@[simp] theorem sourceUp_refuse (s : State) (m : Mark) (c' : Chan) : (s.refuse m).sourceUp c' = s.sourceUp c' := by
  cases c' <;> rfl
@[simp] theorem sinkUp_refuse (s : State) (m : Mark) (c' : Chan) : (s.refuse m).sinkUp c' = s.sinkUp c' := by
  cases c' <;> rfl

/-! ### What `answer` leaves -/

@[simp] theorem params_answer (s : State) (r : Result) : (s.answer r).params = s.params := rfl
@[simp] theorem h2s_answer (s : State) (r : Result) : (s.answer r).h2s = s.h2s := rfl
@[simp] theorem s2h_answer (s : State) (r : Result) : (s.answer r).s2h = s.s2h := rfl
@[simp] theorem usbUp_answer (s : State) (r : Result) : (s.answer r).usbUp = s.usbUp := rfl
@[simp] theorem evm_answer (s : State) (r : Result) : (s.answer r).evm = s.evm := rfl
@[simp] theorem pendH2S_answer (s : State) (r : Result) : (s.answer r).pendH2S = s.pendH2S := rfl
@[simp] theorem pendS2H_answer (s : State) (r : Result) : (s.answer r).pendS2H = s.pendS2H := rfl
@[simp] theorem uartOut_answer (s : State) (r : Result) : (s.answer r).uartOut = s.uartOut := rfl
@[simp] theorem usbClosed_answer (s : State) (r : Result) : (s.answer r).usbClosed = s.usbClosed := rfl
@[simp] theorem usbCurrent_answer (s : State) (r : Result) : (s.answer r).usbCurrent = s.usbCurrent := rfl
@[simp] theorem diag_answer (s : State) (r : Result) : (s.answer r).diag = s.diag := rfl
@[simp] theorem schedule_answer (s : State) (r : Result) : (s.answer r).schedule = s.schedule := rfl
@[simp] theorem marks_answer (s : State) (r : Result) : (s.answer r).marks = s.marks := rfl
@[simp] theorem ch_answer (s : State) (r : Result) (c' : Chan) : (s.answer r).ch c' = s.ch c' := by
  cases c' <;> rfl
@[simp] theorem pend_answer (s : State) (r : Result) (c' : Chan) : (s.answer r).pend c' = s.pend c' := by
  cases c' <;> rfl
@[simp] theorem sink_answer (s : State) (r : Result) (c' : Chan) : (s.answer r).sink c' = s.sink c' := by
  cases c' <;> rfl
@[simp] theorem sourceUp_answer (s : State) (r : Result) (c' : Chan) : (s.answer r).sourceUp c' = s.sourceUp c' := by
  cases c' <;> rfl
@[simp] theorem sinkUp_answer (s : State) (r : Result) (c' : Chan) : (s.answer r).sinkUp c' = s.sinkUp c' := by
  cases c' <;> rfl

/-! ### What `closeSession` leaves -/

@[simp] theorem params_closeSession (s : State) : (s.closeSession).params = s.params := rfl
@[simp] theorem h2s_closeSession (s : State) : (s.closeSession).h2s = s.h2s := rfl
@[simp] theorem s2h_closeSession (s : State) : (s.closeSession).s2h = s.s2h := rfl
@[simp] theorem usbUp_closeSession (s : State) : (s.closeSession).usbUp = s.usbUp := rfl
@[simp] theorem evm_closeSession (s : State) : (s.closeSession).evm = s.evm := rfl
@[simp] theorem pendH2S_closeSession (s : State) : (s.closeSession).pendH2S = s.pendH2S := rfl
@[simp] theorem pendS2H_closeSession (s : State) : (s.closeSession).pendS2H = s.pendS2H := rfl
@[simp] theorem uartOut_closeSession (s : State) : (s.closeSession).uartOut = s.uartOut := rfl
@[simp] theorem diag_closeSession (s : State) : (s.closeSession).diag = s.diag := rfl
@[simp] theorem schedule_closeSession (s : State) : (s.closeSession).schedule = s.schedule := rfl
@[simp] theorem result_closeSession (s : State) : (s.closeSession).result = s.result := rfl
@[simp] theorem marks_closeSession (s : State) : (s.closeSession).marks = s.marks := rfl
@[simp] theorem ch_closeSession (s : State) (c' : Chan) : (s.closeSession).ch c' = s.ch c' := by
  cases c' <;> rfl
@[simp] theorem pend_closeSession (s : State) (c' : Chan) : (s.closeSession).pend c' = s.pend c' := by
  cases c' <;> rfl
@[simp] theorem sourceUp_closeSession (s : State) (c' : Chan) : (s.closeSession).sourceUp c' = s.sourceUp c' := by
  cases c' <;> rfl
@[simp] theorem sinkUp_closeSession (s : State) (c' : Chan) : (s.closeSession).sinkUp c' = s.sinkUp c' := by
  cases c' <;> rfl

/-! ### What each update writes -/

@[simp] theorem diag_raise (s : State) (ks : List DiagKind) (w : Origin) :
    (s.raise ks w).diag = s.diag ++ ks.map fun k => { kind := k, origin := w } := rfl
@[simp] theorem marks_refuse (s : State) (m : Mark) : (s.refuse m).marks = s.marks ++ [m] := rfl
@[simp] theorem result_answer (s : State) (r : Result) : (s.answer r).result = some r := rfl
@[simp] theorem usbClosed_closeSession (s : State) : s.closeSession.usbClosed = s.usbClosed ++ [s.usbCurrent] := rfl
@[simp] theorem usbCurrent_closeSession (s : State) : s.closeSession.usbCurrent = [] := rfl
@[simp] theorem usbOut_closeSession (s : State) : s.closeSession.usbOut = s.usbOut ++ [[]] := rfl

end Sys2Proof.Machine.State
end

