-- ==== Sys2Proof/Laws/Monitor.lean ====
section
/-! SUPPORT. What the event monitor's operations can do, said once. -/

namespace Sys2Proof.Machine.EventMonitor

open Sys2Proof

@[simp] theorem publish_slot (e : EventMonitor) (x : EventState) : (e.publish x).slot = some x := rfl
@[simp] theorem publish_ev (e : EventMonitor) (x : EventState) : (e.publish x).ev = e.ev := rfl
@[simp] theorem publish_deb (e : EventMonitor) (x : EventState) : (e.publish x).deb = e.deb := rfl

/-- TRANSITION by its level (R203): the debounced level and the sampling registers stay. -/
theorem transition_eq (e : EventMonitor) (d : Bool) :
    e.transition d = { e with ev := if d then .touched else .released
                              slot := some (if d then .touched else .released) } := by
  cases d <;> rfl

/-- Everything a COMMIT can do (R202): nothing, or the transition to the candidate level after its window. -/
theorem commit_cases (p : Params) (e : EventMonitor) (t : Nat) :
    ((e.cand = e.deb ∨ t < e.candSince + p.debounceT) ∧ e.commit p t = e)
      ∨ (e.cand ≠ e.deb ∧ e.candSince + p.debounceT ≤ t
          ∧ e.commit p t = ({ e with deb := e.cand } : EventMonitor).transition e.cand) := by
  by_cases h : e.cand ≠ e.deb ∧ e.candSince + p.debounceT ≤ t
  · exact .inr ⟨h.1, h.2, if_pos h⟩
  · refine .inl ⟨?_, if_neg h⟩
    by_cases hc : e.cand = e.deb
    · exact .inl hc
    · exact .inr (Nat.lt_of_not_le fun ht => h ⟨hc, ht⟩)

@[simp] theorem commit_lastT (p : Params) (e : EventMonitor) (t : Nat) : (e.commit p t).lastT = e.lastT := by
  rcases commit_cases p e t with ⟨-, h⟩ | ⟨-, -, h⟩ <;> simp [h, transition_eq]

@[simp] theorem commit_cand (p : Params) (e : EventMonitor) (t : Nat) : (e.commit p t).cand = e.cand := by
  rcases commit_cases p e t with ⟨-, h⟩ | ⟨-, -, h⟩ <;> simp [h, transition_eq]

@[simp] theorem commit_candSince (p : Params) (e : EventMonitor) (t : Nat) :
    (e.commit p t).candSince = e.candSince := by
  rcases commit_cases p e t with ⟨-, h⟩ | ⟨-, -, h⟩ <;> simp [h, transition_eq]

/-- What a sample records before its COMMIT (R201). -/
@[simp] theorem observe_lastT (e : EventMonitor) (v : Bool) (t : Nat) : (e.observe v t).lastT = t := by
  unfold observe
  split <;> rfl

@[simp] theorem observe_cand (e : EventMonitor) (v : Bool) (t : Nat) : (e.observe v t).cand = v := by
  unfold observe
  split
  · rfl
  · simp_all

@[simp] theorem observe_deb (e : EventMonitor) (v : Bool) (t : Nat) : (e.observe v t).deb = e.deb := by
  unfold observe
  split <;> rfl

@[simp] theorem observe_ev (e : EventMonitor) (v : Bool) (t : Nat) : (e.observe v t).ev = e.ev := by
  unfold observe
  split <;> rfl

@[simp] theorem observe_slot (e : EventMonitor) (v : Bool) (t : Nat) : (e.observe v t).slot = e.slot := by
  unfold observe
  split <;> rfl

theorem observe_candSince (e : EventMonitor) (v : Bool) (t : Nat) :
    (e.observe v t).candSince = if v ≠ e.cand then t else e.candSince := by
  unfold observe
  split <;> rfl

end Sys2Proof.Machine.EventMonitor
end

