-- ==== Sys2Proof/Laws/Operands.lean ====
section
/-! SUPPORT. Lemmas of the operand forms: each operand's bytes give the operand back. -/

namespace Sys2Proof.Operand

open Sys2Proof

@[simp] theorem chanOfByte_chanByte (c : Chan) : chanOfByte (chanByte c) = .ok c := by cases c <;> rfl

@[simp] theorem levelOfByte_levelByte (v : Bool) : levelOfByte (levelByte v) = .ok v := by cases v <;> rfl

@[simp] theorem eventOfByte_eventByte (e : EventState) : eventOfByte (eventByte e) = .ok e := by cases e <;> rfl

theorem bytesNat_append_singleton (bs : List Byte) (b : Byte) :
    bytesNat (bs ++ [b]) = bytesNat bs * 256 + b.toNat := by simp [bytesNat]

/-- The digits of a natural make it up again, given fuel enough. -/
theorem bytesNat_digits (fuel n : Nat) (h : n ≤ fuel) : bytesNat (digits fuel n).reverse = n := by
  induction fuel generalizing n with
  | zero =>
    obtain rfl : n = 0 := by omega
    rfl
  | succ fuel ih =>
    unfold digits
    split
    · simp_all [bytesNat]
    · rw [List.reverse_cons, bytesNat_append_singleton, ih _ (by omega)]
      simp
      omega

/-- The most significant digit is not 0. -/
theorem getLast?_digits (fuel n : Nat) (h : n ≤ fuel) : (digits fuel n).getLast? ≠ some 0 := by
  induction fuel generalizing n with
  | zero => simp [digits]
  | succ fuel ih =>
    unfold digits
    split
    · simp
    · rename_i hn
      cases hd : digits fuel (n / 256) with
      | nil =>
        have h0 : n / 256 = 0 := by
          by_contra hq
          cases fuel with
          | zero => omega
          | succ f => simp [digits, hq] at hd
        simp only [List.getLast?_singleton, ne_eq, Option.some.injEq]
        intro hz
        have := congrArg BitVec.toNat hz
        simp at this
        omega
      | cons d ds =>
        have := ih (n / 256) (by omega)
        rw [hd] at this
        simpa [List.getLast?_cons_cons] using this

/-- The bytes of a natural give it back. -/
@[simp] theorem natOfBytes_natBytes (n : Nat) : natOfBytes (natBytes n) = .ok n := by
  unfold natOfBytes natBytes
  rw [if_neg, bytesNat_digits n n le_rfl]
  rw [List.head?_reverse]
  exact getLast?_digits n n le_rfl

end Sys2Proof.Operand
end

