-- ==== Sys2Proof/Laws/PerInstr.lean ====
section
/-! SUPPORT. A statement about every operation as syntax, one lemma per constructor: the first byte of its line meets
the mask and the match of its row in spec/opcode_table.json (R92), or is the first byte of the sync marker
(R81). -/

namespace Sys2Proof.Laws

open Sys2Proof

/-- The mask and the match of an operation's row, over the first byte of its line; a frame row's line begins with
`SYNC_HI`. -/
def FirstByte.row : Instr → Byte × Byte
  | .csum _ _ _ => (0xFF, 0x00)
  | .findSync _ => (0xFF, 0x01)
  | .classify _ => (0xFF, 0x02)
  | .decode _ => (0xFF, 0x03)
  | .encode _ _ _ => (0xFF, 0x04)
  | .injectUart _ => (0xFF, 0x05)
  | .injectUsb _ => (0xFF, 0x06)
  | .recv _ _ => (0xFF, 0x07)
  | .timeout _ => (0xFF, 0x08)
  | .send _ _ => (0xFF, 0x09)
  | .usbConnect => (0xFF, 0x0A)
  | .usbDisconnect => (0xFF, 0x0B)
  | .resolve _ => (0xFF, 0x0C)
  | .complete _ => (0xFF, 0x0D)
  | .sample _ _ => (0xFF, 0x0E)
  | .commit _ => (0xFF, 0x0F)
  | .publish _ => (0xFF, 0x10)
  | .take => (0xFF, 0x11)
  | .reset => (0xFF, 0x12)
  | .transition _ => (0xFF, 0x13)
  | .reserved14to17 _ => (0xFC, 0x14)
  | .reserved18to1F _ => (0xF8, 0x18)
  | .sync _ => (0xFF, 0xEF)
  | .cmd _ _ _ => (0xFF, 0xEF)
  | .data _ _ _ => (0xFF, 0xEF)
  | .ack _ _ _ => (0xFF, 0xEF)
  | .eod _ _ _ => (0xFF, 0xEF)
  | .typeOther _ _ _ _ => (0xFF, 0xEF)

/-- The first byte of an operation's line meets its row. -/
def FirstByte.Statement (i : Instr) : Prop :=
  ∃ b ops, encode i = b :: ops ∧ b &&& (FirstByte.row i).1 = (FirstByte.row i).2

theorem FirstByte.csum (t : Byte) (L : Half) (P : List Byte) : Statement (.csum t L P) :=
  ⟨_, _, rfl, by simp only [FirstByte.row]; decide⟩
theorem FirstByte.findSync (B : List Byte) : Statement (.findSync B) :=
  ⟨_, _, rfl, by simp only [FirstByte.row]; decide⟩
theorem FirstByte.classify (B : List Byte) : Statement (.classify B) :=
  ⟨_, _, rfl, by simp only [FirstByte.row]; decide⟩
theorem FirstByte.decode (B : List Byte) : Statement (.decode B) :=
  ⟨_, _, rfl, by simp only [FirstByte.row]; decide⟩
theorem FirstByte.encode (a : Addr) (t : Byte) (P : List Byte) : Statement (.encode a t P) :=
  ⟨_, _, rfl, by simp only [FirstByte.row]; decide⟩
theorem FirstByte.injectUart (C : List Byte) : Statement (.injectUart C) :=
  ⟨_, _, rfl, by simp only [FirstByte.row]; decide⟩
theorem FirstByte.injectUsb (C : List Byte) : Statement (.injectUsb C) :=
  ⟨_, _, rfl, by simp only [FirstByte.row]; decide⟩
theorem FirstByte.recv (c : Chan) (k : Nat) : Statement (.recv c k) :=
  ⟨_, _, rfl, by simp only [FirstByte.row]; decide⟩
theorem FirstByte.timeout (c : Chan) : Statement (.timeout c) :=
  ⟨_, _, rfl, by simp only [FirstByte.row]; decide⟩
theorem FirstByte.send (c : Chan) (k : Nat) : Statement (.send c k) :=
  ⟨_, _, rfl, by simp only [FirstByte.row]; decide⟩
theorem FirstByte.usbConnect : Statement .usbConnect :=
  ⟨_, _, rfl, by simp only [FirstByte.row]; decide⟩
theorem FirstByte.usbDisconnect : Statement .usbDisconnect :=
  ⟨_, _, rfl, by simp only [FirstByte.row]; decide⟩
theorem FirstByte.resolve (c : Chan) : Statement (.resolve c) :=
  ⟨_, _, rfl, by simp only [FirstByte.row]; decide⟩
theorem FirstByte.complete (c : Chan) : Statement (.complete c) :=
  ⟨_, _, rfl, by simp only [FirstByte.row]; decide⟩
theorem FirstByte.sample (v : Bool) (t : Nat) : Statement (.sample v t) :=
  ⟨_, _, rfl, by simp only [FirstByte.row]; decide⟩
theorem FirstByte.commit (t : Nat) : Statement (.commit t) :=
  ⟨_, _, rfl, by simp only [FirstByte.row]; decide⟩
theorem FirstByte.publish (e : EventState) : Statement (.publish e) :=
  ⟨_, _, rfl, by simp only [FirstByte.row]; decide⟩
theorem FirstByte.take : Statement .take :=
  ⟨_, _, rfl, by simp only [FirstByte.row]; decide⟩
theorem FirstByte.reset : Statement .reset :=
  ⟨_, _, rfl, by simp only [FirstByte.row]; decide⟩
theorem FirstByte.transition (d : Bool) : Statement (.transition d) :=
  ⟨_, _, rfl, by simp only [FirstByte.row]; decide⟩
theorem FirstByte.reserved14to17 (x : BitVec 2) : Statement (.reserved14to17 x) := by
  refine ⟨_, _, rfl, ?_⟩
  revert x
  decide
theorem FirstByte.reserved18to1F (x : BitVec 3) : Statement (.reserved18to1F x) := by
  refine ⟨_, _, rfl, ?_⟩
  revert x
  decide
theorem FirstByte.sync (c : Chan) : Statement (.sync c) :=
  ⟨_, _, rfl, by simp only [FirstByte.row]; decide⟩
theorem FirstByte.cmd (c : Chan) (a : Addr) (P : List Byte) : Statement (.cmd c a P) :=
  ⟨_, _, rfl, by simp only [FirstByte.row]; decide⟩
theorem FirstByte.data (c : Chan) (a : Addr) (P : List Byte) : Statement (.data c a P) :=
  ⟨_, _, rfl, by simp only [FirstByte.row]; decide⟩
theorem FirstByte.ack (c : Chan) (a : Addr) (P : List Byte) : Statement (.ack c a P) :=
  ⟨_, _, rfl, by simp only [FirstByte.row]; decide⟩
theorem FirstByte.eod (c : Chan) (a : Addr) (P : List Byte) : Statement (.eod c a P) :=
  ⟨_, _, rfl, by simp only [FirstByte.row]; decide⟩
theorem FirstByte.typeOther (c : Chan) (t : Byte) (a : Addr) (P : List Byte) : Statement (.typeOther c t a P) :=
  ⟨_, _, rfl, by simp only [FirstByte.row]; decide⟩

end Sys2Proof.Laws
end

