-- ==== Sys2Proof/Laws/Relay.lean ====
section
/-! SUPPORT. What RESOLVE can do, said once: each iteration shortens the buffer (R178), so the loop's fuel is enough
and RESOLVE satisfies the equations of R170; an induction principle over its iterations. -/

namespace Sys2Proof.Machine

open Sys2Proof

@[simp] theorem errorDrop_buf (ch : Channel) (k : Nat) : (ch.errorDrop k).buf = ch.buf.drop k := rfl
@[simp] theorem errorDrop_st (ch : Channel) (k : Nat) : (ch.errorDrop k).st = .waitHeader := rfl
@[simp] theorem waitIn_buf (ch : Channel) (st : ChSt) : (ch.waitIn st).buf = ch.buf := rfl
@[simp] theorem waitIn_st (ch : Channel) (st : ChSt) : (ch.waitIn st).st = st := rfl
@[simp] theorem accept_buf (ch : Channel) (i L : Nat) : (ch.accept i L).buf = ch.buf := rfl
@[simp] theorem accept_st (ch : Channel) (i L : Nat) : (ch.accept i L).st = .forwarding := rfl

theorem cap_eq (p : Params) : p.cap = p.maxPayload + 11 := rfl

/-- A channel that RESOLVE would leave as it is, up to the Forwarding registers and the wait state: the ways one
iteration returns (R170, R175). -/
inductive Settled (p : Params) (ch : Channel) : Channel → Prop where
  | header : Codec.classify p.maxPayload ch.buf = .needHdr → ch.buf.length ≠ p.cap →
      Settled p ch (ch.waitIn .waitHeader)
  | body (i : Nat) : Codec.classify p.maxPayload ch.buf = .needBody i → ch.buf.length ≠ p.cap →
      Settled p ch (ch.waitIn .waitBody)
  | good (i L : Nat) : Codec.classify p.maxPayload ch.buf = .good i L → Settled p ch (ch.accept i L)

/-- The fault branches of one iteration (R171 to R174): the fault and how many bytes it drops. -/
inductive FaultBranch (p : Params) (B : List Byte) : DiagKind → Nat → Prop where
  | overrunHdr : Codec.classify p.maxPayload B = .needHdr → B.length = p.cap → FaultBranch p B .bufferOverrun 1
  | overrunBody (i : Nat) : Codec.classify p.maxPayload B = .needBody i → B.length = p.cap →
      FaultBranch p B .bufferOverrun 1
  | malformed (i L : Nat) : Codec.classify p.maxPayload B = .malformed i L → FaultBranch p B .malformedLength (i + 2)
  | tooLarge (i L : Nat) : Codec.classify p.maxPayload B = .tooLarge i L → FaultBranch p B .frameTooLarge (i + 2)
  | csumBad (i L : Nat) : Codec.classify p.maxPayload B = .csumBad i L →
      FaultBranch p B .checksumMismatch (i + 9 + L)

/-- One iteration returns settled, or takes a fault branch (R170 to R175). -/
theorem resolveOnce_cases (p : Params) (ch : Channel) :
    (∃ ch', resolveOnce p ch = .done ch' ∧ Settled p ch ch')
      ∨ ∃ k n, resolveOnce p ch = .again k (ch.errorDrop n) ∧ FaultBranch p ch.buf k n := by
  unfold resolveOnce needMore
  cases h : Codec.classify p.maxPayload ch.buf with
  | needHdr =>
    by_cases hf : ch.buf.length = p.cap
    · exact .inr ⟨_, _, if_pos hf, .overrunHdr h hf⟩
    · exact .inl ⟨_, if_neg hf, .header h hf⟩
  | needBody i =>
    by_cases hf : ch.buf.length = p.cap
    · exact .inr ⟨_, _, if_pos hf, .overrunBody i h hf⟩
    · exact .inl ⟨_, if_neg hf, .body i h hf⟩
  | malformed i L => exact .inr ⟨_, _, rfl, .malformed i L h⟩
  | tooLarge i L => exact .inr ⟨_, _, rfl, .tooLarge i L h⟩
  | csumBad i L => exact .inr ⟨_, _, rfl, .csumBad i L h⟩
  | good i L => exact .inl ⟨_, rfl, .good i L h⟩

/-- Every fault branch drops at least one byte that is there (R178). -/
theorem FaultBranch.drops {p : Params} {B : List Byte} {k : DiagKind} {n : Nat} (h : FaultBranch p B k n) :
    1 ≤ n ∧ n ≤ B.length := by
  cases h with
  | overrunHdr _ hf => rw [hf, cap_eq]; omega
  | overrunBody _ _ hf => rw [hf, cap_eq]; omega
  | malformed i L hc => have := Codec.classify_malformed_bound hc; omega
  | tooLarge i L hc => have := Codec.classify_tooLarge_bound hc; omega
  | csumBad i L hc => have := Codec.classify_csumBad_bound hc; omega

/-- RESOLVE's loop runs at most `|ch.buf| + 1` iterations (R178): more fuel changes nothing. -/
theorem resolveLoop_fuel (p : Params) (f g : Nat) (ch : Channel) (hf : ch.buf.length < f) (hg : ch.buf.length < g) :
    resolveLoop p f ch = resolveLoop p g ch := by
  induction f generalizing g ch with
  | zero => omega
  | succ f ih =>
    cases g with
    | zero => omega
    | succ g =>
      rcases resolveOnce_cases p ch with ⟨ch', h, -⟩ | ⟨k, n, h, hb⟩
      · simp [resolveLoop, h]
      · have hd := hb.drops
        have hl : (ch.errorDrop n).buf.length = ch.buf.length - n := by simp
        simp only [resolveLoop, h]
        rw [ih g (ch.errorDrop n) (by omega) (by omega)]

/-- RESOLVE returns where an iteration returns (R170). -/
theorem resolveChannel_done {p : Params} {ch ch' : Channel} (h : resolveOnce p ch = .done ch') :
    resolveChannel p ch = (ch', []) := by
  simp [resolveChannel, resolveLoop, h]

/-- RESOLVE goes on where an iteration takes a fault branch (R170). -/
theorem resolveChannel_again {p : Params} {ch : Channel} {k : DiagKind} {n : Nat}
    (h : resolveOnce p ch = .again k (ch.errorDrop n)) (hb : FaultBranch p ch.buf k n) :
    resolveChannel p ch
      = ((resolveChannel p (ch.errorDrop n)).1, k :: (resolveChannel p (ch.errorDrop n)).2) := by
  have hd := hb.drops
  have hl : (ch.errorDrop n).buf.length = ch.buf.length - n := by simp
  have hfuel := resolveLoop_fuel p ch.buf.length ((ch.errorDrop n).buf.length + 1) (ch.errorDrop n)
    (by omega) (by omega)
  rw [show resolveChannel p (ch.errorDrop n) = _ from hfuel.symm]
  simp [resolveChannel, resolveLoop, h]

/-- Induction over RESOLVE's iterations (R170): what holds of a settled channel and passes through every fault branch
holds of every call. -/
theorem resolveChannel_induction {p : Params} {Q : Channel → Channel × List DiagKind → Prop}
    (done : ∀ ch ch', Settled p ch ch' → Q ch (ch', []))
    (again : ∀ ch k n r, FaultBranch p ch.buf k n → Q (ch.errorDrop n) r → Q ch (r.1, k :: r.2))
    (ch : Channel) : Q ch (resolveChannel p ch) := by
  induction hn : ch.buf.length using Nat.strong_induction_on generalizing ch with
  | _ N ih =>
    rcases resolveOnce_cases p ch with ⟨ch', h, hs⟩ | ⟨k, n, h, hb⟩
    · rw [resolveChannel_done h]
      exact done _ _ hs
    · have hd := hb.drops
      rw [resolveChannel_again h hb]
      exact again _ _ _ _ hb (ih _ (by simp; omega) _ rfl)

/-- The channel RESOLVE ends with is settled over what is left of the buffer. -/
theorem resolveChannel_settled (p : Params) (ch : Channel) :
    ∃ n ch', ch'.buf = ch.buf.drop n ∧ Settled p ch' (resolveChannel p ch).1 :=
  resolveChannel_induction (Q := fun ch r => ∃ n ch', ch'.buf = ch.buf.drop n ∧ Settled p ch' r.1)
    (fun ch _ hs => ⟨0, ch, by simp, hs⟩)
    (fun ch k n r _ ⟨m, ch', hb, hs⟩ => ⟨n + m, ch', by simp [hb, List.drop_drop], hs⟩) ch

namespace State

/-! ### What RESOLVE and COMPLETE leave of the rest of the state -/

theorem resolve_eq (s : State) (c : Chan) : s.resolve c
    = (s.setCh c (resolveChannel s.params (s.ch c)).1).raise (resolveChannel s.params (s.ch c)).2 (originOf c) := rfl

@[simp] theorem ch_resolve (s : State) (c : Chan) : (s.resolve c).ch c = (resolveChannel s.params (s.ch c)).1 := by
  simp [resolve_eq]

@[simp] theorem params_resolve (s : State) (c : Chan) : (s.resolve c).params = s.params := by
  simp [resolve_eq]
@[simp] theorem usbUp_resolve (s : State) (c : Chan) : (s.resolve c).usbUp = s.usbUp := by
  simp [resolve_eq]
@[simp] theorem evm_resolve (s : State) (c : Chan) : (s.resolve c).evm = s.evm := by
  simp [resolve_eq]
@[simp] theorem usbClosed_resolve (s : State) (c : Chan) : (s.resolve c).usbClosed = s.usbClosed := by
  simp [resolve_eq]
@[simp] theorem schedule_resolve (s : State) (c : Chan) : (s.resolve c).schedule = s.schedule := by
  simp [resolve_eq]
@[simp] theorem result_resolve (s : State) (c : Chan) : (s.resolve c).result = s.result := by
  simp [resolve_eq]
@[simp] theorem marks_resolve (s : State) (c : Chan) : (s.resolve c).marks = s.marks := by
  simp [resolve_eq]
@[simp] theorem pend_resolve (s : State) (c : Chan) (c' : Chan) : (s.resolve c).pend c' = s.pend c' := by
  simp [resolve_eq]
@[simp] theorem sink_resolve (s : State) (c : Chan) (c' : Chan) : (s.resolve c).sink c' = s.sink c' := by
  simp [resolve_eq]
theorem ch_resolve_of_ne (s : State) (c : Chan) (c' : Chan) (h : c' ≠ c) : (s.resolve c).ch c' = s.ch c' := by
  simp [resolve_eq, ch_setCh_of_ne _ _ _ _ h]

theorem complete_eq (s : State) (c : Chan) : s.complete c = (s.setCh c
    { buf := (s.ch c).buf.drop ((s.ch c).fwdOff + (s.ch c).fwdLen), st := .waitHeader
      fwdOff := 0, fwdLen := 0, wr := 0 }).resolve c := rfl

@[simp] theorem params_complete (s : State) (c : Chan) : (s.complete c).params = s.params := by
  simp [complete_eq]
@[simp] theorem usbUp_complete (s : State) (c : Chan) : (s.complete c).usbUp = s.usbUp := by
  simp [complete_eq]
@[simp] theorem evm_complete (s : State) (c : Chan) : (s.complete c).evm = s.evm := by
  simp [complete_eq]
@[simp] theorem usbClosed_complete (s : State) (c : Chan) : (s.complete c).usbClosed = s.usbClosed := by
  simp [complete_eq]
@[simp] theorem schedule_complete (s : State) (c : Chan) : (s.complete c).schedule = s.schedule := by
  simp [complete_eq]
@[simp] theorem result_complete (s : State) (c : Chan) : (s.complete c).result = s.result := by
  simp [complete_eq]
@[simp] theorem marks_complete (s : State) (c : Chan) : (s.complete c).marks = s.marks := by
  simp [complete_eq]
@[simp] theorem pend_complete (s : State) (c : Chan) (c' : Chan) : (s.complete c).pend c' = s.pend c' := by
  simp [complete_eq]
@[simp] theorem sink_complete (s : State) (c : Chan) (c' : Chan) : (s.complete c).sink c' = s.sink c' := by
  simp [complete_eq]
theorem ch_complete_of_ne (s : State) (c : Chan) (c' : Chan) (h : c' ≠ c) : (s.complete c).ch c' = s.ch c' := by
  simp [complete_eq, ch_resolve_of_ne _ _ _ h, ch_setCh_of_ne _ _ _ _ h]

/-! ### The steps of a channel -/

/-- An enabled RECV (R143). -/
theorem recv_enabled {s : State} {c : Chan} {k : Nat} (h : recvEnabled s c k = true) :
    s.recv c k = ((s.setCh c { s.ch c with buf := (s.ch c).buf ++ (s.pend c).take k }).setPend c
      ((s.pend c).drop k)).resolve c := by simp [recv, h]

/-- A RECV that is not enabled (R13). -/
theorem recv_disabled {s : State} {c : Chan} {k : Nat} (h : recvEnabled s c k = false) : s.recv c k = s := by
  simp [recv, h]

/-- The state after an enabled SEND's emission, before its COMPLETE (R146). -/
abbrev sent (s : State) (c : Chan) (k : Nat) : State :=
  (s.emit c ((s.ch c).chunk k)).setCh c { s.ch c with wr := (s.ch c).wr + k }

/-- A SEND inside the frame (R146). -/
theorem send_inside {s : State} {c : Chan} {k : Nat} (h : sendEnabled s c k = true)
    (hk : (s.ch c).wr + k ≠ (s.ch c).fwdLen) : s.send c k = s.sent c k :=
  (if_pos h).trans (if_neg hk)

/-- A SEND of the frame's last byte (R146). -/
theorem send_last {s : State} {c : Chan} {k : Nat} (h : sendEnabled s c k = true)
    (hk : (s.ch c).wr + k = (s.ch c).fwdLen) : s.send c k = (s.sent c k).complete c :=
  (if_pos h).trans (if_pos hk)

/-- A SEND that is not enabled (R13). -/
theorem send_disabled {s : State} {c : Chan} {k : Nat} (h : sendEnabled s c k = false) : s.send c k = s := by
  simp [send, h]

/-- Everything a SEND can do (R146). -/
theorem send_cases (s : State) (c : Chan) (k : Nat) :
    s.send c k = s ∨ s.send c k = s.sent c k ∨ s.send c k = (s.sent c k).complete c := by
  cases h : sendEnabled s c k with
  | false => exact .inl (send_disabled h)
  | true =>
    by_cases hk : (s.ch c).wr + k = (s.ch c).fwdLen
    · exact .inr (.inr (send_last h hk))
    · exact .inr (.inl (send_inside h hk))

@[simp] theorem params_recv (s : State) (c : Chan) (k : Nat) : (s.recv c k).params = s.params := by
  unfold recv; split <;> simp
@[simp] theorem usbUp_recv (s : State) (c : Chan) (k : Nat) : (s.recv c k).usbUp = s.usbUp := by
  unfold recv; split <;> simp
@[simp] theorem evm_recv (s : State) (c : Chan) (k : Nat) : (s.recv c k).evm = s.evm := by
  unfold recv; split <;> simp
@[simp] theorem usbClosed_recv (s : State) (c : Chan) (k : Nat) : (s.recv c k).usbClosed = s.usbClosed := by
  unfold recv; split <;> simp
@[simp] theorem schedule_recv (s : State) (c : Chan) (k : Nat) : (s.recv c k).schedule = s.schedule := by
  unfold recv; split <;> simp
@[simp] theorem result_recv (s : State) (c : Chan) (k : Nat) : (s.recv c k).result = s.result := by
  unfold recv; split <;> simp
@[simp] theorem marks_recv (s : State) (c : Chan) (k : Nat) : (s.recv c k).marks = s.marks := by
  unfold recv; split <;> simp
@[simp] theorem sink_recv (s : State) (c : Chan) (k : Nat) (c' : Chan) : (s.recv c k).sink c' = s.sink c' := by
  unfold recv; split <;> simp
theorem ch_recv_of_ne (s : State) (c : Chan) (k : Nat) (c' : Chan) (h : c' ≠ c) : (s.recv c k).ch c' = s.ch c' := by
  unfold recv; split <;> simp [ch_resolve_of_ne _ _ _ h, ch_setCh_of_ne _ _ _ _ h]

@[simp] theorem params_send (s : State) (c : Chan) (k : Nat) : (s.send c k).params = s.params := by
  rcases send_cases s c k with e | e | e <;> rw [e] <;> simp [sent]
@[simp] theorem usbUp_send (s : State) (c : Chan) (k : Nat) : (s.send c k).usbUp = s.usbUp := by
  rcases send_cases s c k with e | e | e <;> rw [e] <;> simp [sent]
@[simp] theorem evm_send (s : State) (c : Chan) (k : Nat) : (s.send c k).evm = s.evm := by
  rcases send_cases s c k with e | e | e <;> rw [e] <;> simp [sent]
@[simp] theorem usbClosed_send (s : State) (c : Chan) (k : Nat) : (s.send c k).usbClosed = s.usbClosed := by
  rcases send_cases s c k with e | e | e <;> rw [e] <;> simp [sent]
@[simp] theorem schedule_send (s : State) (c : Chan) (k : Nat) : (s.send c k).schedule = s.schedule := by
  rcases send_cases s c k with e | e | e <;> rw [e] <;> simp [sent]
@[simp] theorem result_send (s : State) (c : Chan) (k : Nat) : (s.send c k).result = s.result := by
  rcases send_cases s c k with e | e | e <;> rw [e] <;> simp [sent]
@[simp] theorem marks_send (s : State) (c : Chan) (k : Nat) : (s.send c k).marks = s.marks := by
  rcases send_cases s c k with e | e | e <;> rw [e] <;> simp [sent]
@[simp] theorem pend_send (s : State) (c : Chan) (k : Nat) (c' : Chan) : (s.send c k).pend c' = s.pend c' := by
  rcases send_cases s c k with e | e | e <;> rw [e] <;> simp [sent]
theorem ch_send_of_ne (s : State) (c : Chan) (k : Nat) (c' : Chan) (h : c' ≠ c) : (s.send c k).ch c' = s.ch c' := by
  rcases send_cases s c k with e | e | e <;> rw [e] <;>
    simp [sent, ch_complete_of_ne _ _ _ h, ch_setCh_of_ne _ _ _ _ h]

/-! ### The pseudo-steps keep what RECV and SEND keep -/

/-- What every RECV of a channel keeps, DRAIN keeps. -/
theorem drain_keeps {Q : State → Prop} {c : Chan} (recv : ∀ s k, Q s → Q (s.recv c k)) {s : State} (h : Q s) :
    Q (s.drain c) := by
  have loop : ∀ n s, Q s → Q (drainLoop c n s) := by
    intro n
    induction n with
    | zero => exact fun _ h => h
    | succ n ih =>
      intro s h
      unfold drainLoop
      split
      · exact ih _ (recv _ _ h)
      · exact h
  exact loop _ _ h

/-- What every RECV and SEND of a channel keeps, RELAY keeps. -/
theorem relay_keeps {Q : State → Prop} {c : Chan} (recv : ∀ s k, Q s → Q (s.recv c k))
    (send : ∀ s k, Q s → Q (s.send c k)) {s : State} (h : Q s) : Q (s.relay c) := by
  have loop : ∀ n s, Q s → Q (relayLoop c n s) := by
    intro n
    induction n with
    | zero => exact fun _ h => h
    | succ n ih =>
      intro s h
      unfold relayLoop
      split
      · exact ih _ (drain_keeps recv (send _ _ h))
      · exact h
  exact loop _ _ (drain_keeps recv h)

/-- What an arrival and every RECV and SEND of a channel keeps, the arrival of a frame keeps. -/
theorem deliver_keeps {Q : State → Prop} {c : Chan} (inject : ∀ s C, Q s → Q (s.inject c C))
    (recv : ∀ s k, Q s → Q (s.recv c k)) (send : ∀ s k, Q s → Q (s.send c k)) {s : State} (F : List Byte)
    (h : Q s) : Q (s.deliver c F) := by
  unfold deliver
  split
  · exact relay_keeps recv send (inject _ _ h)
  · exact h

end State

end Sys2Proof.Machine
end

