-- ==== Sys2Proof/Laws/Step.lean ====
section
/-! SUPPORT. What a step can do, said once. -/

namespace Sys2Proof.Machine

open Sys2Proof

/-- A step that answers a next state waited, or ran the operation of the next line. -/
theorem step_cases {s t : State} (h : step s = .next t) :
    (s.schedule = [] ∧ t = s)
      ∨ ∃ l rest i, s.schedule = l :: rest ∧ decode l = .ok i ∧ exec i { s with schedule := rest } = .next t := by
  unfold step State.fetch at h
  cases hs : s.schedule with
  | nil =>
    simp only [hs, Host.Outcome.next.injEq] at h
    exact .inl ⟨rfl, h.symm⟩
  | cons l rest =>
    simp only [hs] at h
    cases hd : decode l with
    | error e => simp [hd] at h
    | ok i => exact .inr ⟨l, rest, i, rfl, hd, by simpa [hd] using h⟩

/-! What `exec` is for the operations that are one named operation over the state. -/

theorem exec_recv (c : Chan) (k : Nat) (s : State) : exec (.recv c k) s = .next (s.recv c k) := rfl
theorem exec_send (c : Chan) (k : Nat) (s : State) : exec (.send c k) s = .next (s.send c k) := rfl
theorem exec_timeout (c : Chan) (s : State) : exec (.timeout c) s = .next (s.timeout c) := rfl
theorem exec_resolve (c : Chan) (s : State) : exec (.resolve c) s = .next (s.resolve c) := rfl
theorem exec_complete (c : Chan) (s : State) : exec (.complete c) s = .next (s.complete c) := rfl
theorem exec_sample (v : Bool) (t : Nat) (s : State) : exec (.sample v t) s = .next (s.sample v t) := rfl

/-- An enabled step has a pacing class (R234). -/
theorem pacing_of_enabled {s : State} {i : Instr} (h : enabled s i = true) : ∃ p, pacing s i = some p := by
  cases i with
  | recv c k =>
    have hs : s.pend c ≠ [] := by
      intro hn
      simp [enabled, recvEnabled, hn] at h
      omega
    exact ⟨.block, by simp [pacing, hs]⟩
  | _ => first | exact ⟨_, rfl⟩ | cases h

end Sys2Proof.Machine
end

