-- ==== Sys2Proof/Tests/Slice0.lean ====
section
/-! SUPPORT. The model's own tests: WellFormed's checks, decoding, one step per operation, and a witness for the
hypotheses of every statement.  Expected values come from spec/95_test_vectors.md and from the examples of the
rules, or are worked out by hand from a rule; each group names its source. -/

namespace Sys2Proof.Tests

open Sys2Proof Sys2Proof.Machine

/-! ### Helpers -/

/-- `MAX_PAYLOAD = 4` (`CAP = 15`), `USB_MPS = 64`, `DEBOUNCE_T = 10` (95_test_vectors.md). -/
def p4 : Params := ⟨4, 64, 10, by decide, by decide, by decide⟩

/-- `MAX_PAYLOAD = 256`, the other parameters as above. -/
def p256 : Params := ⟨256, 64, 10, by decide, by decide, by decide⟩

/-- The reset state `S0` at `MAX_PAYLOAD = 4`. -/
def s4 : State := .resetWith p4

/-- `s4` with the USB link up. -/
def up : State := { s4 with usbUp := true }

/-- `s4` with the USB link up and this S2H channel and source. -/
def s2hUp (ch : Channel) (pend : List Byte) : State := { up with s2h := ch, pendS2H := pend }

/-- The same for H2S. -/
def h2sUp (ch : Channel) (pend : List Byte) : State := { up with h2s := ch, pendH2S := pend }

/-- A channel that waits. -/
def waiting (st : ChSt) (buf : List Byte) : Channel := ⟨buf, st, 0, 0, 0⟩

/-- The next state, if there is one. -/
def nextOf (o : Host.Outcome State Fault Refusal) : Option State :=
  match o with
  | .next t => some t
  | .fault _ => none
  | .refused _ => none

/-- Scenario A's literal bytes, `A_LIT`. -/
def aLit : List Byte := [0xEF, 0x01, 0xFF, 0xFF, 0xFF, 0xFF, 0x01, 0x00, 0x03, 0x50, 0x00, 0x51]

/-- Scenario A corrected, `A_COR`. -/
def aCor : List Byte := [0xEF, 0x01, 0xFF, 0xFF, 0xFF, 0xFF, 0x01, 0x00, 0x03, 0x50, 0x00, 0x54]

/-- `ACK0`. -/
def ack0 : List Byte := [0xEF, 0x01, 0xFF, 0xFF, 0xFF, 0xFF, 0x07, 0x00, 0x03, 0x00, 0x00, 0x0A]

/-- `CMD1`. -/
def cmd1 : List Byte := [0xEF, 0x01, 0xFF, 0xFF, 0xFF, 0xFF, 0x01, 0x00, 0x03, 0x01, 0x00, 0x05]

/-- `MALF`. -/
def malf : List Byte := [0xEF, 0x01, 0xFF, 0xFF, 0xFF, 0xFF, 0x01, 0x00, 0x01]

/-- `BIG7`. -/
def big7 : List Byte := [0xEF, 0x01, 0x00, 0x00, 0x00, 0x00, 0x02, 0x00, 0x07]

/-- A channel that forwards `F`, of which `wr` bytes have been sent. -/
def forwarding (F : List Byte) (wr : Nat) : Channel := ⟨F, .forwarding, 0, F.length, wr⟩

/-! ### WellFormed: an ill-formed term for each check, which the check refuses -/

theorem test_wf_refuses_empty_injectUart : (Instr.injectUart []).wf = false := by decide
theorem test_wf_refuses_empty_injectUsb : (Instr.injectUsb []).wf = false := by decide
theorem test_wf_refuses_named_typeOther : (Instr.typeOther .h2s 0x07 0 []).wf = false := by decide
theorem test_wf_accepts_typeOther : (Instr.typeOther .h2s 0x03 0 []).wf = true := by decide

/-- A payload one byte too long for the 16-bit `LEN`. -/
def tooLong : List Byte := List.replicate 65534 0

theorem test_wf_refuses_long_payloads :
    (Instr.cmd .h2s 0 tooLong).wf = false ∧ (Instr.data .h2s 0 tooLong).wf = false
      ∧ (Instr.ack .h2s 0 tooLong).wf = false ∧ (Instr.eod .h2s 0 tooLong).wf = false
      ∧ (Instr.typeOther .h2s 0x03 0 tooLong).wf = false := by
  have h : payloadFits tooLong = false := by
    unfold payloadFits tooLong
    rw [List.length_replicate]
    decide
  refine ⟨h, h, h, h, ?_⟩
  exact (congrArg (!namedType 0x03 && ·) h).trans (Bool.and_false _)

/-! ### Decoding: lines written out from R80, R92 and R94 -/

theorem test_decode_csum : decode [0x00, 0x01, 0x00, 0x03, 0x50] = .ok (.csum 0x01 3 [0x50]) := by decide
theorem test_decode_findSync : decode [0x01, 0x11, 0xEF] = .ok (.findSync [0x11, 0xEF]) := by decide
theorem test_decode_classify : decode [0x02] = .ok (.classify []) := by decide
theorem test_decode_decode : decode [0x03, 0xEF, 0x01] = .ok (.decode [0xEF, 0x01]) := by decide
theorem test_decode_encode :
    decode [0x04, 0x12, 0x34, 0x56, 0x78, 0x02, 0x09] = .ok (.encode 0x12345678 0x02 [0x09]) := by decide
theorem test_decode_injectUart : decode [0x05, 0xEF, 0x01] = .ok (.injectUart [0xEF, 0x01]) := by decide
theorem test_decode_injectUsb : decode [0x06, 0x33] = .ok (.injectUsb [0x33]) := by decide
theorem test_decode_injectUsb_empty : decode [0x06] = .error .emptyBytes := by decide
theorem test_decode_recv : decode [0x07, 0x00, 0x05] = .ok (.recv .h2s 5) := by decide
theorem test_decode_recv_wide : decode [0x07, 0x01, 0x01, 0x0B] = .ok (.recv .s2h 267) := by decide
theorem test_decode_timeout : decode [0x08, 0x01] = .ok (.timeout .s2h) := by decide
theorem test_decode_timeout_badChannel : decode [0x08, 0x02] = .error .badChannel := by decide
theorem test_decode_send : decode [0x09, 0x01, 0x0C] = .ok (.send .s2h 12) := by decide
theorem test_decode_usbConnect : decode [0x0A] = .ok .usbConnect := by decide
theorem test_decode_usbDisconnect : decode [0x0B] = .ok .usbDisconnect := by decide
theorem test_decode_usbDisconnect_extra : decode [0x0B, 0x00] = .error .extraOperand := by decide
theorem test_decode_resolve : decode [0x0C, 0x00] = .ok (.resolve .h2s) := by decide
theorem test_decode_complete : decode [0x0D, 0x01] = .ok (.complete .s2h) := by decide
theorem test_decode_sample : decode [0x0E, 0x01, 0x64] = .ok (.sample true 100) := by decide
theorem test_decode_sample_leadingZero : decode [0x0E, 0x01, 0x00, 0x64] = .error .leadingZero := by decide
theorem test_decode_commit : decode [0x0F, 0x6E] = .ok (.commit 110) := by decide
theorem test_decode_publish : decode [0x10, 0x02] = .ok (.publish .released) := by decide
theorem test_decode_publish_unheld : decode [0x10, 0x03] = .error .badEventState := by decide
theorem test_decode_take : decode [0x11] = .ok .take := by decide
theorem test_decode_reset : decode [0x12] = .ok .reset := by decide
theorem test_decode_transition : decode [0x13, 0x01] = .ok (.transition true) := by decide
theorem test_decode_reserved14to17 : decode [0x17] = .ok (.reserved14to17 3) := by decide
theorem test_decode_reserved18to1F : decode [0x18] = .ok (.reserved18to1F 0) := by decide
theorem test_decode_above_the_codes : decode [0x20] = .error .unknownOpcode := by decide
theorem test_decode_sync : decode [0xEF, 0x01, 0x01] = .ok (.sync .s2h) := by decide
theorem test_decode_cmd : decode (aCor ++ [0x00]) = .ok (.cmd .h2s 0xFFFFFFFF [0x50]) := by decide
theorem test_decode_cmd_badChecksum : decode (aLit ++ [0x00]) = .error .badFrame := by decide
theorem test_decode_data :
    decode [0xEF, 0x01, 0x12, 0x34, 0x56, 0x78, 0x02, 0x00, 0x06, 0x01, 0x02, 0x03, 0x04, 0x00, 0x12, 0x01]
      = .ok (.data .s2h 0x12345678 [1, 2, 3, 4]) := by decide
theorem test_decode_ack : decode (ack0 ++ [0x01]) = .ok (.ack .s2h 0xFFFFFFFF [0x00]) := by decide
theorem test_decode_eod :
    decode [0xEF, 0x01, 0x00, 0x00, 0x00, 0x01, 0x08, 0x00, 0x02, 0x00, 0x0A, 0x00] = .ok (.eod .h2s 1 []) := by
  decide
theorem test_decode_typeOther :
    decode [0xEF, 0x01, 0x00, 0x00, 0x00, 0x01, 0x09, 0x00, 0x02, 0x00, 0x0B, 0x00]
      = .ok (.typeOther .h2s 0x09 1 []) := by decide

/-- The table's words: every action code and the sync marker give their rows' operations. -/
theorem test_table_words :
    decodeTableWord 8 0x07 = some (.recv .h2s 0) ∧ decodeTableWord 8 0x13 = some (.transition false)
      ∧ decodeTableWord 8 0x14 = some (.reserved14to17 0) ∧ decodeTableWord 8 0x1F = some (.reserved18to1F 7)
      ∧ decodeTableWord 16 0xEF01 = some (.sync .h2s) := by decide

/-! ### One step per operation (95_test_vectors.md 2.1 to 2.7 and the examples of the rules) -/

theorem test_csum : (nextOf (exec (.csum 0x01 3 [0x50]) s4)).map (·.result) = some (some (.csum 0x0054)) := by decide
theorem test_csum_wraps : Codec.csum 0x02 260 (List.replicate 258 0xFF) = 0x0105 := by decide +kernel
theorem test_findSync :
    (nextOf (exec (.findSync [0x11, 0x22, 0xEF, 0x01, 0xFF]) s4)).map (·.result) = some (some (.sync (some 2))) := by
  decide
theorem test_findSync_overlap : Codec.findSync [0xEF, 0xEF, 0x01] = some 1 ∧ Codec.findSync [0x00, 0xEF] = none := by
  decide
theorem test_classify :
    (nextOf (exec (.classify aLit) s4)).map (·.result) = some (some (.verdict (.csumBad 0 3))) := by decide
theorem test_classify_length_checks :
    Codec.classify 4 big7 = .tooLarge 0 7 ∧ Codec.classify 256 big7 = .needBody 0
      ∧ Codec.classify 4 malf = .malformed 0 1 ∧ Codec.classify 4 (0 :: 0 :: aCor) = .good 2 3 := by decide
theorem test_decode_function :
    (nextOf (exec (.decode (0x00 :: ack0)) s4)).map (·.result)
      = some (some (.decoded (.ok ⟨0xFFFFFFFF, 0x07, 3, [0x00], 0x000A⟩ 1 13))) := by decide
theorem test_decode_function_short : Codec.decode 4 [0xEF, 0x01] = .needMoreData := by decide
theorem test_encode :
    (nextOf (exec (.encode 0xEF01EF01 0x02 [0xEF, 0x01]) s4)).map (·.result)
      = some (some (.frame [0xEF, 0x01, 0xEF, 0x01, 0xEF, 0x01, 0x02, 0x00, 0x04, 0xEF, 0x01, 0x00, 0xF6])) := by
  decide
theorem test_encode_refused :
    nextOf (exec (.encode 0 0x02 [1, 2, 3, 4, 5]) s4) = some { s4 with marks := [.encodePayload] } := by decide
theorem test_injectUart :
    nextOf (exec (.injectUart [0xEF, 0x01]) s4) = some { s4 with pendS2H := [0xEF, 0x01] } := by decide
theorem test_injectUsb_down : nextOf (exec (.injectUsb [0x01]) s4) = some s4 := by decide
theorem test_recv_scenarioB :
    (nextOf (exec (.recv .s2h 6) (s2hUp .reset ack0))).map (fun t => (t.s2h, t.pendS2H.length))
      = some (waiting .waitBody [0xEF, 0x01, 0xFF, 0xFF, 0xFF, 0xFF], 6) := by decide
theorem test_recv_overrun :
    (nextOf (exec (.recv .s2h 15) (s2hUp .reset [0, 1, 2, 3, 4, 5, 6, 7, 8, 9, 10, 11, 12, 13, 14]))).map
        (fun t => (t.s2h, t.diag.map DiagRecord.codes))
      = some (waiting .waitHeader [1, 2, 3, 4, 5, 6, 7, 8, 9, 10, 11, 12, 13, 14], [(0x4, 1)]) := by decide
theorem test_timeout :
    (nextOf (exec (.timeout .s2h) (s2hUp (waiting .waitBody [0xEF, 0x01, 0xFF]) []))).map
        (fun t => (t.s2h, t.diag.map DiagRecord.codes))
      = some (waiting .waitBody [0xEF, 0x01, 0xFF], [(0x5, 1)]) := by decide
theorem test_timeout_down : nextOf (exec (.timeout .h2s) s4) = some s4 := by decide
theorem test_send_part :
    (nextOf (exec (.send .h2s 4) { s4 with h2s := forwarding aCor 0 })).map (fun t => (t.h2s.wr, t.uartOut))
      = some (4, [0xEF, 0x01, 0xFF, 0xFF]) := by decide
theorem test_send_last :
    (nextOf (exec (.send .s2h 12) (s2hUp (forwarding ack0 0) []))).map (fun t => (t.s2h, t.usbOut))
      = some (.reset, [ack0]) := by decide
theorem test_usbConnect : nextOf (exec .usbConnect s4) = some up := by decide
theorem test_usbDisconnect_carryover :
    (nextOf (exec .usbDisconnect { up with h2s := ⟨cmd1 ++ [0xEF, 0x01, 0xFF], .forwarding, 0, 12, 3⟩ })).map
        (fun t => (t.h2s, t.usbOut, t.diag.map DiagRecord.codes))
      = some (forwarding cmd1 3, [[], []], [(0x6, 2)]) := by decide
theorem test_usbDisconnect_restarts :
    (nextOf (exec .usbDisconnect { s2hUp (forwarding ack0 5) [] with usbCurrent := ack0.take 5 })).map
        (fun t => (t.s2h, t.usbOut))
      = some (forwarding ack0 0, [[0xEF, 0x01, 0xFF, 0xFF, 0xFF], []]) := by decide
theorem test_resolve_chain :
    (nextOf (exec (.resolve .s2h)
        { s2hUp (waiting .waitHeader ([0x00, 0xEF, 0x55] ++ aLit ++ ack0)) [] with params := p256 })).map
        (fun t => (t.s2h, t.diag.map DiagRecord.codes))
      = some (forwarding ack0 0, [(0x2, 1)]) := by decide
theorem test_resolve_tooLarge :
    (nextOf (exec (.resolve .s2h) (s2hUp (waiting .waitBody big7) []))).map
        (fun t => (t.s2h, t.diag.map DiagRecord.codes))
      = some (waiting .waitHeader [0, 0, 0, 0, 2, 0, 7], [(0x3, 1)]) := by decide
theorem test_complete :
    (nextOf (exec (.complete .s2h) { s2hUp ⟨ack0 ++ cmd1 ++ [0xEF, 0x01], .forwarding, 0, 12, 12⟩ []
        with params := p256 })).map (fun t => (t.s2h.st, t.s2h.fwdLen, t.s2h.wr, t.s2h.n))
      = some (.forwarding, 12, 0, 14) := by decide
theorem test_sample_commits :
    (nextOf (exec (.sample true 110) { s4 with evm := ⟨.idle, false, true, 100, 109, none⟩ })).map (·.evm)
      = some ⟨.touched, true, true, 100, 110, some .touched⟩ := by decide
theorem test_sample_refused :
    nextOf (exec (.sample false 40) { s4 with evm := ⟨.idle, false, true, 50, 50, none⟩ })
      = some { s4 with evm := ⟨.idle, false, true, 50, 50, none⟩, marks := [.sampleTime] } := by decide
theorem test_commit_too_early :
    nextOf (exec (.commit 109) { s4 with evm := ⟨.idle, false, true, 100, 109, none⟩ })
      = some { s4 with evm := ⟨.idle, false, true, 100, 109, none⟩ } := by decide
theorem test_publish_overwrites :
    (nextOf (exec (.publish .released) { s4 with evm := ⟨.touched, true, true, 0, 0, some .touched⟩ })).map
        (·.evm.slot) = some (some .released) := by decide
theorem test_take :
    (nextOf (exec .take { s4 with evm := ⟨.released, false, false, 0, 0, some .released⟩ })).map
        (fun t => (t.result, t.evm.slot)) = some (some (.slot (some .released)), none) := by decide
theorem test_reset :
    (nextOf (exec .reset { s2hUp (waiting .waitBody [0xEF, 0x01, 0xFF]) [] with uartOut := [1] })).map
        (fun t => (t.s2h, t.usbUp, t.usbOut, t.uartOut))
      = some (.reset, false, [[], []], [1]) := by decide
theorem test_transition :
    (nextOf (exec (.transition true) { s4 with evm := ⟨.released, true, true, 0, 0, none⟩ })).map
        (fun t => (t.evm.ev, t.evm.slot)) = some (.touched, some .touched) := by decide
theorem test_reserved14to17 :
    nextOf (exec (.reserved14to17 3) s4) = some { s4 with marks := [.reservedCode 0x17] } := by decide
theorem test_reserved18to1F :
    nextOf (exec (.reserved18to1F 0) s4) = some { s4 with marks := [.reservedCode 0x18] } := by decide
theorem test_sync :
    (nextOf (exec (.sync .s2h) up)).map (·.s2h) = some (waiting .waitBody [0xEF, 0x01]) := by decide
theorem test_cmd :
    nextOf (exec (.cmd .h2s 0xFFFFFFFF [0x50]) up) = some { up with uartOut := aCor } := by decide
theorem test_data :
    (nextOf (exec (.data .s2h 0x12345678 [1, 2, 3, 4]) up)).map (fun t => (t.usbOut, t.s2h))
      = some ([[0xEF, 0x01, 0x12, 0x34, 0x56, 0x78, 0x02, 0x00, 0x06, 1, 2, 3, 4, 0x00, 0x12]], .reset) := by decide
theorem test_ack_waits_while_down :
    (nextOf (exec (.ack .s2h 0xFFFFFFFF [0x00]) s4)).map (·.s2h) = some (forwarding ack0 0) := by decide
theorem test_eod :
    (nextOf (exec (.eod .s2h 1 []) up)).map (·.usbOut)
      = some [[0xEF, 0x01, 0x00, 0x00, 0x00, 0x01, 0x08, 0x00, 0x02, 0x00, 0x0A]] := by decide
theorem test_typeOther :
    (nextOf (exec (.typeOther .h2s 0x09 1 []) up)).map (·.uartOut)
      = some [0xEF, 0x01, 0x00, 0x00, 0x00, 0x01, 0x09, 0x00, 0x02, 0x00, 0x0B] := by decide

/-! ### Witnesses: for the hypotheses of each statement, states and operands that meet all of them

Each is named after the statement whose hypotheses it meets; a statement with several clauses has one for each, at the
ends of the ranges. -/

/-- What `nextOf` says of an outcome. -/
theorem next_of_nextOf {o : Host.Outcome State Fault Refusal} {t : State} (h : nextOf o = some t) : o = .next t := by
  cases o <;> simp_all [nextOf]

/-- `AllEnabled` as a check. -/
def allEnabled : List Instr → State → Bool
  | [], _ => true
  | i :: is, s =>
    enabled s i && match exec i s with
      | .next t => allEnabled is t
      | .fault _ => true
      | .refused _ => true

theorem allEnabled_sound (is : List Instr) (s : State) (h : allEnabled is s = true) : AllEnabled is s := by
  induction is generalizing s with
  | nil => trivial
  | cons i is ih =>
    rw [allEnabled, Bool.and_eq_true] at h
    refine ⟨h.1, fun t ht => ih t ?_⟩
    have h2 := h.2
    rw [ht] at h2
    exact h2

/-- Four payload bytes, the most at `MAX_PAYLOAD = 4`. -/
def four : List Byte := [1, 2, 3, 4]

/-- A full buffer without a marker. -/
def fullNoMarker : List Byte := [0, 1, 2, 3, 4, 5, 6, 7, 8, 9, 10, 11, 12, 13, 14]

/-- A full buffer whose marker at 1 opens a frame of 15 bytes. -/
def fullCandidate : List Byte := 0x00 :: (Codec.encodeFrame 0 0x02 four).take 14

/-- The monitor with a level 1 seen at 100, last sampled at 109. -/
def rising : State := { s4 with evm := ⟨.idle, false, true, 100, 109, none⟩ }

theorem witness_EncodeWritesTheFrameLayout : four.length ≤ s4.params.maxPayload := by decide
theorem witness_DecodeOfEncodedFrame : ([] : List Byte).length ≤ s4.params.maxPayload := by decide
theorem witness_RefusalsLeaveOnlyAMark :
    s4.params.maxPayload < [1, 2, 3, 4, 5].length ∧ 108 < rising.evm.lastT ∧ 65533 < 65534 := by decide
theorem witness_FindSync_some : FirstMarker ([0xEF] ++ aCor) 1 := by unfold FirstMarker MarkerAt; decide
theorem witness_FindSync_none : ∀ i, i < 3 → ¬ MarkerAt [0x00, 0xEF] i := by unfold MarkerAt; decide
theorem witness_Classify_short : FirstMarker (aCor.take 8) 0 ∧ (aCor.take 8).length - 0 < 9 := by
  unfold FirstMarker MarkerAt; decide
theorem witness_Classify_malformed : FirstMarker malf 0 ∧ 9 ≤ malf.length - 0
    ∧ (malf.getD (0 + 7) 0).toNat * 256 + (malf.getD (0 + 8) 0).toNat < 2 := by
  unfold FirstMarker MarkerAt; decide
theorem witness_Classify_tooLarge : FirstMarker big7 0 ∧ 9 ≤ big7.length - 0
    ∧ s4.params.maxPayload < (big7.getD (0 + 7) 0).toNat * 256 + (big7.getD (0 + 8) 0).toNat - 2 := by
  unfold FirstMarker MarkerAt; decide
theorem witness_Classify_body : FirstMarker (aCor.take 11) 0 ∧ 9 ≤ (aCor.take 11).length - 0
    ∧ (aCor.take 11).length - 0 < 9 + 3 ∧ 3 - 2 ≤ s4.params.maxPayload := by unfold FirstMarker MarkerAt; decide
theorem witness_Classify_whole : FirstMarker aLit 0 ∧ FirstMarker aCor 0 ∧ 9 + 3 ≤ aLit.length - 0
    ∧ 9 + 3 ≤ aCor.length - 0 ∧ (0x0051 : Nat) ≠ 0x0054 := by unfold FirstMarker MarkerAt; decide
theorem witness_DecodeFollowsTheVerdict :
    Codec.classify 4 [] = .needHdr ∧ Codec.classify 4 (aCor.take 2) = .needBody 0
      ∧ Codec.classify 4 malf = .malformed 0 1 ∧ Codec.classify 4 big7 = .tooLarge 0 7
      ∧ Codec.classify 4 aLit = .csumBad 0 3 ∧ Codec.classify 4 (0x00 :: aCor) = .good 1 3 := by decide
theorem witness_PayloadBitFlip : four.length ≤ s4.params.maxPayload ∧ 3 < four.length ∧ 7 < 8 := by decide
theorem witness_PartialFrames : aCor.take 11 <+: Codec.encodeFrame 0xFFFFFFFF 0x01 [0x50]
    ∧ (aCor.take 11).length < (Codec.encodeFrame 0xFFFFFFFF 0x01 [0x50]).length := by decide
theorem witness_DecidedVerdictsAreLocal :
    exec (.classify aCor) s4 = .next { s4 with result := some (.verdict (.good 0 3)) }
      ∧ exec (.classify aLit) s4 = .next { s4 with result := some (.verdict (.csumBad 0 3)) }
      ∧ exec (.classify malf) s4 = .next { s4 with result := some (.verdict (.malformed 0 1)) }
      ∧ exec (.classify big7) s4 = .next { s4 with result := some (.verdict (.tooLarge 0 7)) } :=
  ⟨next_of_nextOf (by decide +kernel), next_of_nextOf (by decide +kernel), next_of_nextOf (by decide +kernel),
    next_of_nextOf (by decide +kernel)⟩
theorem witness_CodecFunctionsArePure : opKind (.encode 0 0 four) = .codec ∧ opKind (.csum 0 2 []) = .codec
    ∧ s4.params.maxPayload = 4 ∧ four.length ≤ 4 := by decide
theorem witness_ChecksumMisses : [0x10, 0x20].length ≤ s4.params.maxPayload
    ∧ ([0x11, 0x1F] : List Byte).length = ([0x10, 0x20] : List Byte).length
    ∧ (([0x11, 0x1F] : List Byte).map BitVec.toNat).sum % 65536
      = (([0x10, 0x20] : List Byte).map BitVec.toNat).sum % 65536 := by decide
theorem witness_InjectAppends : up.usbUp = true ∧ s4.usbUp = false := by decide
theorem witness_RecvMoves_ready :
    RecvReady (s2hUp .reset fullNoMarker) .s2h 15 ∧ RecvReady (h2sUp (waiting .waitBody (aCor.take 11)) [0x54]) .h2s 1 := by
  unfold RecvReady; decide
theorem witness_RecvMoves_notReady :
    ¬ RecvReady (s2hUp .reset fullNoMarker) .s2h 0 ∧ ¬ RecvReady (s2hUp .reset (0 :: fullNoMarker)) .s2h 16
      ∧ ¬ RecvReady { s4 with pendH2S := [1] } .h2s 1 ∧ ¬ RecvReady (s2hUp (forwarding ack0 0) [1]) .s2h 1 := by
  unfold RecvReady; decide
theorem witness_ForwardingStopsReads : ((s2hUp (forwarding ack0 0) [1]).ch .s2h).st = .forwarding := by decide
theorem witness_TimeoutOnlyRecords :
    TimeoutReady (s2hUp (waiting .waitBody (aCor.take 3)) []) .s2h ∧ TimeoutReady up .h2s
      ∧ ¬ TimeoutReady s4 .h2s ∧ ¬ TimeoutReady (s2hUp .reset [1]) .s2h := by unfold TimeoutReady; decide
theorem witness_SendEmits_h2s :
    SendReady { s4 with h2s := forwarding aCor 0 } .h2s 11 ∧ 0 + 11 < (forwarding aCor 0).fwdLen
      ∧ SendReady { s4 with h2s := forwarding aCor 11 } .h2s 1 ∧ 11 + 1 = (forwarding aCor 11).fwdLen := by
  unfold SendReady; decide
theorem witness_SendEmits_s2h :
    SendReady (s2hUp (forwarding ack0 0) []) .s2h 1 ∧ 0 + 1 < (forwarding ack0 0).fwdLen
      ∧ SendReady (s2hUp (forwarding ack0 0) []) .s2h 12 ∧ 0 + 12 = (forwarding ack0 0).fwdLen := by
  unfold SendReady; decide
theorem witness_SendEmits_notReady :
    ¬ SendReady { s4 with s2h := forwarding ack0 0 } .s2h 1 ∧ ¬ SendReady (s2hUp (forwarding ack0 0) []) .s2h 13
      ∧ ¬ SendReady (s2hUp (forwarding ack0 0) []) .s2h 0 := by unfold SendReady; decide
theorem witness_SendsHandOver :
    ((s2hUp (forwarding ack0 0) []).ch .s2h).wr = 0 ∧ [5, 7].sum = (forwarding ack0 0).fwdLen
      ∧ AllEnabled ([5, 7].map (Instr.send .s2h)) (s2hUp (forwarding ack0 0) []) :=
  ⟨by decide, by decide, allEnabled_sound _ _ (by decide)⟩
theorem witness_ConnectAndDisconnect : s4.usbUp = false ∧ up.usbUp = true := by decide
theorem witness_ResolveWaits :
    ((s2hUp (waiting .waitBody (aCor.take 11)) []).ch .s2h).buf.length ≠ p4.maxPayload + 11
      ∧ Codec.classify p4.maxPayload (aCor.take 11) = .needBody 0
      ∧ fullNoMarker.tail.length ≠ p4.maxPayload + 11
      ∧ Codec.classify p4.maxPayload fullNoMarker.tail = .needHdr := by decide
theorem witness_ResolveOverrun :
    fullNoMarker.length = p4.maxPayload + 11 ∧ Codec.classify p4.maxPayload fullNoMarker = .needHdr
      ∧ fullCandidate.length = p4.maxPayload + 11 ∧ Codec.classify p4.maxPayload fullCandidate = .needBody 1 := by
  decide
theorem witness_ResolveLengthFaults :
    Codec.classify p4.maxPayload (0x00 :: malf) = .malformed 1 1 ∧ Codec.classify p4.maxPayload big7 = .tooLarge 0 7 := by
  decide
theorem witness_ResolveChecksumFault : Codec.classify p4.maxPayload (aLit ++ [0xEF]) = .csumBad 0 3 := by decide
theorem witness_ResolveAccepts :
    Codec.classify p4.maxPayload (Codec.encodeFrame 0 0x02 four) = .good 0 6 := by decide
theorem witness_ResolveSettles :
    ((s2hUp (waiting .waitHeader fullNoMarker) []).ch .s2h).buf.length ≤ p4.maxPayload + 11 := by decide
theorem witness_OverrunSparesTheCandidate :
    fullCandidate.length = p4.maxPayload + 11 ∧ Codec.classify p4.maxPayload fullCandidate = .needBody 1 := by decide
theorem witness_OverrunIsOnlyTheFirstFault : fullCandidate.length ≤ p4.maxPayload + 11 := by decide
theorem witness_PassthroughIsReencoding : Codec.classify 4 (0x00 :: aCor ++ [0xFF]) = .good 1 3 := by decide

/-- Five bytes of garbage, then scenario A corrected: 17 bytes, two more than `CAP`. -/
def garbageThenFrame : List Instr :=
  [.timeout .s2h, .injectUart ([0x10, 0x11, 0x12, 0x13, 0xEF] ++ aCor), .recv .s2h 15, .recv .s2h 1, .recv .s2h 1]

theorem witness_GarbageThenFrame :
    (∀ i, i < 5 → ¬ MarkerAt [0x10, 0x11, 0x12, 0x13, 0xEF] i) ∧ up.ch .s2h = Channel.reset ∧ up.pend .s2h = []
      ∧ (∀ i ∈ garbageThenFrame, Feeds .s2h i) ∧ AllEnabled garbageThenFrame up
      ∧ arrivals garbageThenFrame = [0x10, 0x11, 0x12, 0x13, 0xEF] ++ Codec.encodeFrame 0xFFFFFFFF 0x01 [0x50]
      ∧ ∃ u, follow garbageThenFrame up = .next u ∧ u.pend .s2h = [] :=
  ⟨by unfold MarkerAt; decide, by decide, by decide, by simp [garbageThenFrame, Feeds],
    allEnabled_sound _ _ (by decide), by decide,
    { s2hUp ⟨[0x12, 0x13, 0xEF] ++ aCor, .forwarding, 3, 12, 0⟩ [] with
      diag := [⟨.transportTimeout, .s2h⟩, ⟨.bufferOverrun, .s2h⟩, ⟨.bufferOverrun, .s2h⟩] },
    next_of_nextOf (by decide), by decide⟩

theorem witness_ChannelOperationsKeepTheRest :
    exec (.timeout .h2s) up = .next { up with diag := [⟨.transportTimeout, .h2s⟩] }
      ∧ exec (.recv .s2h 1) (s2hUp .reset [0x11]) = .next (s2hUp (waiting .waitHeader [0x11]) [])
      ∧ exec (.send .s2h 5) (s2hUp (forwarding ack0 0) [])
        = .next { s2hUp (forwarding ack0 5) [] with usbCurrent := ack0.take 5 }
      ∧ exec (.resolve .s2h) (s2hUp (waiting .waitHeader malf) [])
        = .next { s2hUp (waiting .waitHeader (malf.drop 2)) [] with diag := [⟨.malformedLength, .s2h⟩] }
      ∧ exec (.complete .s2h) (s2hUp (forwarding ack0 12) []) = .next up
      ∧ exec (.sync .s2h) up = .next (s2hUp (waiting .waitBody [0xEF, 0x01]) [])
      ∧ exec (.ack .s2h 0xFFFFFFFF [0x00]) up = .next { up with usbCurrent := ack0 } :=
  ⟨next_of_nextOf (by decide), next_of_nextOf (by decide), next_of_nextOf (by decide), next_of_nextOf (by decide),
    next_of_nextOf (by decide), next_of_nextOf (by decide), next_of_nextOf (by decide)⟩

/-- A channel that forwards scenario A corrected meets the invariant. -/
theorem forwarding_inv : ChannelInv p4 (forwarding aCor 3) where
  bound := by decide
  not_error := by decide
  header := by decide
  body := ⟨fun h => absurd h (by decide), fun ⟨⟨i, hi⟩, _⟩ => by
    rw [show Codec.classify p4.maxPayload (forwarding aCor 3).buf = .good 0 3 by decide] at hi; cases hi⟩
  forwarding := ⟨fun _ => ⟨0, 3, by decide⟩, fun _ => rfl⟩
  fwd_ranges := by decide
  canonical := by decide

/-- A channel that holds the start of a frame meets the invariant. -/
theorem waiting_inv : ChannelInv p4 (waiting .waitBody (aCor.take 11)) where
  bound := by decide
  not_error := by decide
  header := by decide
  body := ⟨fun _ => ⟨⟨0, by decide⟩, by decide⟩, fun _ => rfl⟩
  forwarding := ⟨fun h => absurd h (by decide), fun ⟨i, L, hi, _⟩ => by
    rw [show Codec.classify p4.maxPayload (waiting .waitBody (aCor.take 11)).buf = .needBody 0 by decide] at hi
    cases hi⟩
  fwd_ranges := by decide
  canonical := by decide

/-- One channel forwards and the other waits, and the next line is `RECV 1 1`. -/
def relaying : State :=
  { s2hUp (waiting .waitBody (aCor.take 11)) [0x54] with h2s := forwarding aCor 3, schedule := [[0x07, 1, 1]] }

theorem witness_StepKeepsTheRelayInvariant :
    RelayInv relaying ∧ ∃ t, step relaying = .next t ∧ t.s2h = forwarding aCor 0 :=
  ⟨⟨forwarding_inv, waiting_inv⟩,
    { relaying with s2h := forwarding aCor 0, pendS2H := [], schedule := [] }, next_of_nextOf (by decide), rfl⟩
theorem witness_SampleRecordsAndCommits : rising.evm.lastT ≤ 109 ∧ true = rising.evm.cand ∧ false ≠ rising.evm.cand := by
  decide
theorem witness_CommitAfterTheDebounceWindow :
    rising.evm.cand ≠ rising.evm.deb ∧ rising.evm.candSince + rising.params.debounceT ≤ 110
      ∧ 109 < rising.evm.candSince + rising.params.debounceT ∧ s4.evm.cand = s4.evm.deb := by decide
theorem witness_MonitorOperationsKeepTheRelay :
    exec .take up = .next { up with result := some (.slot none) } := next_of_nextOf (by decide)
theorem witness_OperationsKeepTheMonitorInvariant :
    MonitorInv rising.evm
      ∧ exec (.sample true 110) rising
        = .next { rising with evm := ⟨.touched, true, true, 100, 110, some .touched⟩ } :=
  ⟨⟨by decide, by decide⟩, next_of_nextOf (by decide)⟩
theorem witness_ShortPulsesAreRejected :
    9 < s4.params.debounceT ∧ s4.evm.deb = false ∧ s4.evm.cand = false
      ∧ (∀ x ∈ [(false, 99), (true, 100), (true, 108), (false, 109), (false, 200)],
          x.1 = true ↔ 100 ≤ x.2 ∧ x.2 < 100 + 9)
      ∧ AllEnabled ([(false, 99), (true, 100), (true, 108), (false, 109), (false, 200)].map
          fun x => Instr.sample x.1 x.2) s4 :=
  ⟨by decide, by decide, by decide, by decide, allEnabled_sound _ _ (by decide)⟩
theorem witness_ResetReturnsEveryRegister : up.usbUp = true ∧ s4.usbUp = false := by decide
theorem witness_NothingMovesAtRest :
    Rest s4 ∧ Rest { s4 with s2h := forwarding ack0 0 } := by unfold Rest; decide

/-- Both channels with bytes to read. -/
def bothPending : State := { up with pendH2S := [0x11], pendS2H := [0x22] }

theorem witness_StepsCommute_channels :
    opKind (.recv .h2s 1) = .step .h2s ∧ opKind (.recv .s2h 1) = .step .s2h
      ∧ ∃ a ab b ba, exec (.recv .h2s 1) bothPending = .next a ∧ exec (.recv .s2h 1) a = .next ab
        ∧ exec (.recv .s2h 1) bothPending = .next b ∧ exec (.recv .h2s 1) b = .next ba :=
  ⟨rfl, rfl, _, _, _, _, rfl, rfl, rfl, rfl⟩
theorem witness_StepsCommute_inject :
    enabled bothPending (.recv .s2h 1) = true
      ∧ ∃ a ab b ba, exec (.recv .s2h 1) bothPending = .next a ∧ exec (.injectUart [0x33]) a = .next ab
        ∧ exec (.injectUart [0x33]) bothPending = .next b ∧ exec (.recv .s2h 1) b = .next ba :=
  ⟨by decide, _, _, _, _, rfl, rfl, rfl, rfl⟩
theorem witness_StepsCommute_timeout :
    enabled up (.timeout .h2s) = true
      ∧ ∃ a ab b ba, exec (.timeout .h2s) up = .next a ∧ exec (.injectUart [0x33]) a = .next ab
        ∧ exec (.injectUart [0x33]) up = .next b ∧ exec (.timeout .h2s) b = .next ba :=
  ⟨by decide, _, _, _, _, rfl, rfl, rfl, rfl⟩
theorem witness_TracesAreOnlyAppendedTo :
    ∃ t, exec .usbDisconnect up = .next t ∧ t.usbClosed = [[]] ∧ t.diag = [⟨.transportDisconnected, .usb⟩] :=
  ⟨_, rfl, rfl, rfl⟩
theorem witness_LegalFrames :
    up.usbUp = true ∧ up.ch .h2s = Channel.reset ∧ up.ch .s2h = Channel.reset ∧ up.pend .h2s = []
      ∧ up.pend .s2h = [] ∧ four.length ≤ up.params.maxPayload := by decide
theorem witness_BareMarker : up.usbUp = true ∧ up.ch .s2h = Channel.reset ∧ up.pend .s2h = [] := by decide
theorem witness_FrameRowsRunTheChannelToRest :
    (Chan.h2s = .h2s → relaying.usbUp = true) ∧ (Chan.s2h = .h2s → relaying.usbUp = true) ∧ RelayInv relaying :=
  ⟨fun _ => by decide, fun h => absurd h (by decide), ⟨forwarding_inv, waiting_inv⟩⟩
theorem witness_FramesWhileUsbIsDown :
    s4.usbUp = false ∧ s4.s2h = Channel.reset ∧ s4.pendS2H = [] ∧ four.length ≤ s4.params.maxPayload := by decide
theorem witness_StatusOutputs :
    relaying.status = ⟨0b10, 0b01, 12, 11, true, false, 0b00⟩ ∧ nWidth p4 = 4 ∧ RelayInv relaying :=
  ⟨by decide, by decide, ⟨forwarding_inv, waiting_inv⟩⟩
theorem witness_RecordsCarryTheirCodes :
    exec .usbDisconnect up = .next { s4 with usbClosed := [[]], diag := [⟨.transportDisconnected, .usb⟩] } :=
  next_of_nextOf (by decide)

/-- Samples at most 5 apart, the level high from 1 on: the last is at `1 + 5 + DEBOUNCE_T`. -/
def stable : List (Bool × Nat) := [(true, 5), (true, 10), (true, 14), (true, 16)]

theorem witness_StableLevelsAreCommitted :
    MonitorInv s4.evm ∧ s4.evm.lastT ≤ 1 ∧ GapsWithin 5 (s4.evm.lastT :: stable.map Prod.snd)
      ∧ AllEnabled (stable.map fun x => Instr.sample x.1 x.2) s4 ∧ (∀ x ∈ stable, 1 ≤ x.2 → x.1 = true)
      ∧ ∃ x ∈ stable, 1 + 5 + s4.params.debounceT ≤ x.2 :=
  ⟨⟨by decide, by decide⟩, by decide, by simp [GapsWithin, stable]; decide, allEnabled_sound _ _ (by decide),
    by decide, by decide⟩
/-- `bothPending` with a record of either channel to be made. -/
def bothRaising : State :=
  { bothPending with h2s := waiting .waitBody malf.dropLast, s2h := waiting .waitBody malf.dropLast }

/-- R251 and R173: the two orders of two raising reads leave the two orders of their records in the one list. -/
theorem test_records_stand_in_step_order :
    (nextOf (follow [.recv .h2s 1, .recv .s2h 1] bothRaising)).map (·.diag.map DiagRecord.codes)
        = some [(0x3, 0), (0x3, 1)]
      ∧ (nextOf (follow [.recv .s2h 1, .recv .h2s 1] bothRaising)).map (·.diag.map DiagRecord.codes)
        = some [(0x3, 1), (0x3, 0)] := by decide
theorem witness_ChannelStepsCommute :
    opKind (.recv .h2s 1) = .step (agentOf .h2s) ∧ enabled bothRaising (.recv .h2s 1) = true
      ∧ enabled bothRaising (.recv .s2h 1) = true ∧ opKind (.recv .s2h 1) ≠ .step (agentOf .h2s)
      ∧ changesLink (.recv .s2h 1) = false
      ∧ ∃ a ab b ba, exec (.recv .h2s 1) bothRaising = .next a ∧ exec (.recv .s2h 1) a = .next ab
        ∧ exec (.recv .s2h 1) bothRaising = .next b ∧ exec (.recv .h2s 1) b = .next ba :=
  ⟨by decide, by decide, by decide, by decide, by decide, _, _, _, _, rfl, rfl, rfl, rfl⟩
theorem witness_ChannelStepsCommute_timeout :
    enabled up (.timeout .s2h) = true ∧ enabled up (.injectUart [0x33]) = true ∧ ArrivesOn .s2h (.injectUart [0x33])
      ∧ ∃ a ab b ba, exec (.timeout .s2h) up = .next a ∧ exec (.injectUart [0x33]) a = .next ab
        ∧ exec (.injectUart [0x33]) up = .next b ∧ exec (.timeout .s2h) b = .next ba :=
  ⟨by decide, by decide, ⟨rfl, by decide⟩, _, _, _, _, rfl, rfl, rfl, rfl⟩
theorem witness_ChannelStepsCommute_emitted :
    (∀ i ∈ [Instr.recv .h2s 1, .recv .s2h 1, .recv .s2h 1, .take], ∃ g, opKind i = .step g)
      ∧ [Instr.recv .h2s 1, .recv .s2h 1].filter (bearsOn .s2h) = [Instr.recv .s2h 1, .take].filter (bearsOn .s2h)
      ∧ ∃ u v, follow [.recv .h2s 1, .recv .s2h 1] bothPending = .next u
        ∧ follow [.recv .s2h 1, .take] bothPending = .next v :=
  ⟨by simp [opKind], by decide, _, _, rfl, rfl⟩
theorem witness_DecodeOfEncodedLine :
    (Instr.recv .s2h 267).wf = true ∧ (Instr.typeOther .h2s 0x03 1 four).wf = true
      ∧ (Instr.injectUsb [0x00]).wf = true := by decide
theorem witness_EncodeOfDecodedLine : decode [0x0E, 0x01, 0x64] = .ok (.sample true 100) := by decide
theorem witness_StepRunsTheNextLine :
    s4.schedule = [] ∧ relaying.schedule = [0x07, 1, 1] :: [] ∧ decode [0x07, 1, 1] = .ok (.recv .s2h 1)
      ∧ decode [0x20] = .error .unknownOpcode := by decide

end Sys2Proof.Tests
end

section
/-! PROOFS. What stands at each offset of an encoded frame (spec/30_encoding.md R80), and O5. -/

namespace Sys2Proof.Codec

open Sys2Proof

/-- The four bytes of an address make it up again (R63, R82). -/
theorem be32_addrBytes (a : Addr) :
    be32 (a.extractLsb' 24 8) (a.extractLsb' 16 8) (a.extractLsb' 8 8) (a.extractLsb' 0 8) = a.toNat := by
  have := a.isLt
  simp only [be32, BitVec.extractLsb'_toNat, Nat.shiftRight_eq_div_pow]
  omega

/-- On the payload lengths of R84 the `LEN` field does not wrap. -/
theorem lenField_toNat {P : List Byte} (h : P.length ≤ maxLenPayload) : (lenField P).toNat = P.length + 2 := by
  rw [lenField, BitVec.toNat_ofNat]
  exact Nat.mod_eq_of_lt (by unfold maxLenPayload at h; omega)

/-- Offsets 0 and 1 hold the sync marker. -/
theorem encodeFrame_take_sync (a : Addr) (t : Byte) (P : List Byte) :
    (encodeFrame a t P).take 2 = [syncHi, syncLo] := rfl

/-- Offsets 2 to 5 hold the address, most significant byte first. -/
theorem encodeFrame_addr (a : Addr) (t : Byte) (P : List Byte) :
    be32 (byteAt (encodeFrame a t P) 2) (byteAt (encodeFrame a t P) 3) (byteAt (encodeFrame a t P) 4)
      (byteAt (encodeFrame a t P) 5) = a.toNat :=
  be32_addrBytes a

/-- Offset 6 holds the type. -/
theorem encodeFrame_type (a : Addr) (t : Byte) (P : List Byte) : byteAt (encodeFrame a t P) 6 = t := rfl

/-- Offsets 7 and 8 hold `LEN = |P| + 2`, most significant byte first. -/
theorem lenAt_encodeFrame (a : Addr) (t : Byte) {P : List Byte} (h : P.length ≤ maxLenPayload) :
    lenAt (encodeFrame a t P) 0 = P.length + 2 :=
  (be16_hi8_lo8 (lenField P)).trans (lenField_toNat h)

/-- From offset 9 on stand the payload and then the two checksum bytes. -/
theorem encodeFrame_drop_header (a : Addr) (t : Byte) (P : List Byte) :
    (encodeFrame a t P).drop 9 = P ++ [hi8 (csum t (lenField P) P), lo8 (csum t (lenField P) P)] := by
  simp [encodeFrame, addrBytes]

/-- The payload stands at the offsets from 9 on. -/
theorem encodeFrame_payload (a : Addr) (t : Byte) (P : List Byte) :
    ((encodeFrame a t P).drop 9).take P.length = P := by
  rw [encodeFrame_drop_header, List.take_left]

/-- A byte after the payload is a byte of the checksum. -/
theorem byteAt_encodeFrame_after_payload (a : Addr) (t : Byte) (P : List Byte) (k : Nat) :
    byteAt (encodeFrame a t P) (9 + (P.length + k))
      = byteAt [hi8 (csum t (lenField P) P), lo8 (csum t (lenField P) P)] k := by
  simp only [byteAt, List.getD_eq_getElem?_getD]
  rw [← List.getElem?_drop, encodeFrame_drop_header, List.getElem?_append_right (Nat.le_add_right _ _),
    Nat.add_sub_cancel_left]

/-- The last two bytes hold the checksum, most significant byte first. -/
theorem encodeFrame_checksum (a : Addr) (t : Byte) (P : List Byte) :
    be16 (byteAt (encodeFrame a t P) (9 + P.length)) (byteAt (encodeFrame a t P) (10 + P.length))
      = (csum t (lenField P) P).toNat := by
  have hhi : byteAt (encodeFrame a t P) (9 + P.length) = hi8 (csum t (lenField P) P) :=
    byteAt_encodeFrame_after_payload a t P 0
  have hlo : byteAt (encodeFrame a t P) (10 + P.length) = lo8 (csum t (lenField P) P) := by
    rw [show 10 + P.length = 9 + (P.length + 1) by omega]
    exact byteAt_encodeFrame_after_payload a t P 1
  rw [hhi, hlo, be16_hi8_lo8]

/-- The checksum of an encoded frame as the byte sum of R110. -/
theorem csum_lenField_toNat (t : Byte) {P : List Byte} (h : P.length ≤ maxLenPayload) :
    (csum t (lenField P) P).toNat
      = (t.toNat + (P.length + 2) / 256 + (P.length + 2) % 256 + sumBytes P) % 65536 := by
  rw [csum_toNat, lenField_toNat h]

end Sys2Proof.Codec

namespace Sys2Proof.Machine

open Sys2Proof

/-- On its domain (R114) ENCODE answers the encoded frame. -/
theorem exec_encode_of_le {s : State} {P : List Byte} (a : Addr) (t : Byte) (h : P.length ≤ s.params.maxPayload) :
    exec (.encode a t P) s = .next (s.answer (.frame (Codec.encodeFrame a t P))) := by
  change execEncode a t P s = _
  rw [execEncode, if_neg (Nat.not_lt.mpr h)]

end Sys2Proof.Machine

namespace Sys2Proof.Proofs

open Sys2Proof Sys2Proof.Machine

/-- Settles O5: the fields of `encodeFrame` one by one. The range of `MAX_PAYLOAD` (R8) keeps `LEN` in 16 bits. -/
theorem encodeWritesTheFrameLayout : Obligations.EncodeWritesTheFrameLayout := by
  intro a t P s hP
  have hlen : P.length ≤ Codec.maxLenPayload := hP.trans s.params.maxPayload_le
  have hck := (Codec.encodeFrame_checksum a t P).trans (Codec.csum_lenField_toNat t hlen)
  exact ⟨Codec.encodeFrame a t P, exec_encode_of_le a t hP, Codec.encodeFrame_length a t P,
    Codec.encodeFrame_take_sync a t P, Codec.encodeFrame_addr a t P, Codec.encodeFrame_type a t P,
    Codec.lenAt_encodeFrame a t hlen, Codec.encodeFrame_payload a t P, hck⟩

end Sys2Proof.Proofs
end

section
/-! PROOFS. Forward equations of CLASSIFY and DECODE, the locality of a decided verdict, and O7 to O11, O1 and O4
(spec/40_codec.md R110 to R119). -/

namespace Sys2Proof.Codec

open Sys2Proof

/-! ### CLASSIFY's verdict from R112's conditions -/

theorem classify_eq_malformed {m i : Nat} {B : List Byte} (hs : findSync B = some i) (hb : i + 9 ≤ B.length)
    (hL : lenAt B i < 2) : classify m B = .malformed i (lenAt B i) := by
  rw [classify, hs]
  simp only [classifyAt]
  rw [if_neg (by omega), if_pos hL]

theorem classify_eq_tooLarge {m i : Nat} {B : List Byte} (hs : findSync B = some i) (hb : i + 9 ≤ B.length)
    (hL : 2 ≤ lenAt B i) (hm : m < lenAt B i - 2) : classify m B = .tooLarge i (lenAt B i) := by
  rw [classify, hs]
  simp only [classifyAt]
  rw [if_neg (by omega), if_neg (by omega), if_pos hm]

/-- A whole candidate of a legal length is judged by its checksum alone. -/
theorem classify_whole {m i : Nat} {B : List Byte} (hs : findSync B = some i) (hL : 2 ≤ lenAt B i)
    (hm : lenAt B i - 2 ≤ m) (hb : i + 9 + lenAt B i ≤ B.length) :
    classify m B = if rxAt B i (lenAt B i) ≠ csumAt B i (lenAt B i) then .csumBad i (lenAt B i)
      else .good i (lenAt B i) := by
  rw [classify, hs]
  simp only [classifyAt]
  rw [if_neg (by omega), if_neg (by omega), if_neg (by omega), if_neg (by omega)]

theorem classify_eq_csumBad {m i : Nat} {B : List Byte} (hs : findSync B = some i) (hL : 2 ≤ lenAt B i)
    (hm : lenAt B i - 2 ≤ m) (hb : i + 9 + lenAt B i ≤ B.length)
    (hc : rxAt B i (lenAt B i) ≠ csumAt B i (lenAt B i)) : classify m B = .csumBad i (lenAt B i) := by
  rw [classify_whole hs hL hm hb, if_pos hc]

theorem classify_eq_good {m i : Nat} {B : List Byte} (hs : findSync B = some i) (hL : 2 ≤ lenAt B i)
    (hm : lenAt B i - 2 ≤ m) (hb : i + 9 + lenAt B i ≤ B.length)
    (hc : rxAt B i (lenAt B i) = csumAt B i (lenAt B i)) : classify m B = .good i (lenAt B i) := by
  rw [classify_whole hs hL hm hb, if_neg (not_not.mpr hc)]

/-- What `GOOD` says of the candidate's `LEN` and checksum; its bounds are `classify_good_bound`. -/
theorem classify_good_fields {m i L : Nat} {B : List Byte} (h : classify m B = .good i L) :
    L = lenAt B i ∧ rxAt B i L = csumAt B i L := by
  rcases classify_cases m B with ⟨-, hv⟩ | ⟨j, -, hv⟩ | ⟨j, -, -, -, hv⟩ | ⟨j, -, -, -, -, hv⟩
    | ⟨j, -, -, -, -, -, hv⟩ | ⟨j, -, -, -, -, hc, hv⟩ <;> cases hv.symm.trans h
  exact ⟨rfl, hc⟩

/-! ### Locality (R118) -/

theorem byteAt_append {B : List Byte} {k : Nat} (T : List Byte) (h : k < B.length) :
    byteAt (B ++ T) k = byteAt B k :=
  List.getD_append _ _ _ _ h

theorem slice_append {B : List Byte} {i j : Nat} (T : List Byte) (hij : i ≤ j) (h : j ≤ B.length) :
    slice (B ++ T) i j = slice B i j := by
  rw [slice, slice, List.drop_append_of_le_length (hij.trans h),
    List.take_append_of_le_length (by rw [List.length_drop]; omega)]

theorem lenAt_append {B : List Byte} {i : Nat} (T : List Byte) (h : i + 9 ≤ B.length) :
    lenAt (B ++ T) i = lenAt B i := by
  rw [lenAt, byteAt_append T (by omega), byteAt_append T (by omega), lenAt]

theorem rxAt_append {B : List Byte} {i L : Nat} (T : List Byte) (h : i + 9 + L ≤ B.length) :
    rxAt (B ++ T) i L = rxAt B i L := by
  rw [rxAt, byteAt_append T (by omega), byteAt_append T (by omega), rxAt]

theorem csumAt_append {B : List Byte} {i L : Nat} (T : List Byte) (hL : 2 ≤ L) (h : i + 9 + L ≤ B.length) :
    csumAt (B ++ T) i L = csumAt B i L := by
  rw [csumAt, byteAt_append T (by omega), slice_append T (by omega) (by omega), csumAt]

/-- The verdicts that R118 calls decided. -/
def Verdict.Decided (v : Verdict) : Prop :=
  ∃ i L, v = .good i L ∨ v = .csumBad i L ∨ v = .malformed i L ∨ v = .tooLarge i L

/-- R118: all that a decided verdict reads lies in the bytes already there. -/
theorem classify_append {m : Nat} {B : List Byte} (T : List Byte) (h : (classify m B).Decided) :
    classify m (B ++ T) = classify m B := by
  have hlen : (B ++ T).length = B.length + T.length := List.length_append
  rcases classify_cases m B with ⟨-, hv⟩ | ⟨i, -, hv⟩ | ⟨i, hs, hb, hL, hv⟩ | ⟨i, hs, hb, hL, hm, hv⟩
    | ⟨i, hs, hL, hm, hb, hc, hv⟩ | ⟨i, hs, hL, hm, hb, hc, hv⟩
  · simp [hv, Verdict.Decided] at h
  · simp [hv, Verdict.Decided] at h
  all_goals
    have hs' := findSync_append T hs
    have hL' : lenAt (B ++ T) i = lenAt B i := lenAt_append T (by omega)
    rw [hv, ← hL']
  · exact classify_eq_malformed hs' (by omega) (by omega)
  · exact classify_eq_tooLarge hs' (by omega) (by omega) (by omega)
  · refine classify_eq_csumBad hs' (by omega) (by omega) (by omega) ?_
    rwa [hL', rxAt_append T hb, csumAt_append T hL hb]
  · refine classify_eq_good hs' (by omega) (by omega) (by omega) ?_
    simp only [hL', rxAt_append T hb, csumAt_append T hL hb, hc]

/-! ### DECODE by verdict (R113) -/

theorem decode_of_needHdr {m : Nat} {B : List Byte} (h : classify m B = .needHdr) : decode m B = .needMoreData := by
  rw [decode, h]

theorem decode_of_needBody {m i : Nat} {B : List Byte} (h : classify m B = .needBody i) :
    decode m B = .needMoreData := by
  rw [decode, h]

theorem decode_of_malformed {m i L : Nat} {B : List Byte} (h : classify m B = .malformed i L) :
    decode m B = .err .malformedLength := by
  rw [decode, h]

theorem decode_of_tooLarge {m i L : Nat} {B : List Byte} (h : classify m B = .tooLarge i L) :
    decode m B = .err .frameTooLarge := by
  rw [decode, h]

theorem decode_of_csumBad {m i L : Nat} {B : List Byte} (h : classify m B = .csumBad i L) :
    decode m B = .err .checksumMismatch := by
  rw [decode, h]

theorem decode_of_good {m i L : Nat} {B : List Byte} (h : classify m B = .good i L) :
    decode m B = .ok (frameAt B i L) i (i + 9 + L) := by
  rw [decode, h]

theorem decode_of_not_decided {m : Nat} {B : List Byte} (h : ¬ (classify m B).Decided) :
    decode m B = .needMoreData := by
  cases hv : classify m B with
  | needHdr => exact decode_of_needHdr hv
  | needBody i => exact decode_of_needBody hv
  | malformed i L => exact absurd ⟨i, L, by simp [hv]⟩ h
  | tooLarge i L => exact absurd ⟨i, L, by simp [hv]⟩ h
  | csumBad i L => exact absurd ⟨i, L, by simp [hv]⟩ h
  | good i L => exact absurd ⟨i, L, by simp [hv]⟩ h

/-- R117 from R118: a verdict decided on fewer bytes than the frame has would be the frame's own, which needs them. -/
theorem decode_of_truncated {m i L : Nat} {B F : List Byte} (hF : classify m F = .good i L) (hB : B <+: F)
    (hlt : B.length < i + 9 + L) : decode m B = .needMoreData := by
  obtain ⟨T, rfl⟩ := hB
  refine decode_of_not_decided fun hd => ?_
  rw [classify_append T hd] at hF
  have := (classify_good_bound hF).1
  omega

/-! ### The fields of an accepted frame (R113) -/

theorem frameAt_addr_toNat (B : List Byte) (i L : Nat) : (frameAt B i L).addr.toNat
    = be32 (byteAt B (i + 2)) (byteAt B (i + 3)) (byteAt B (i + 4)) (byteAt B (i + 5)) := by
  have h2 := (byteAt B (i + 2)).isLt
  have h3 := (byteAt B (i + 3)).isLt
  have h4 := (byteAt B (i + 4)).isLt
  have h5 := (byteAt B (i + 5)).isLt
  simp only [frameAt, be32, BitVec.toNat_ofNat]
  omega

theorem frameAt_len_toNat {m i L : Nat} {B : List Byte} (h : classify m B = .good i L) :
    (frameAt B i L).len.toNat = L := by
  have hL : L < 65536 := (classify_good_fields h).1 ▸ be16_lt _ _
  exact Nat.mod_eq_of_lt hL

theorem frameAt_checksum_toNat (B : List Byte) (i L : Nat) : (frameAt B i L).checksum.toNat = rxAt B i L :=
  Nat.mod_eq_of_lt (be16_lt _ _)

theorem frameAt_payload {i L : Nat} (B : List Byte) : (frameAt B i L).payload = (B.drop (i + 9)).take (L - 2) := by
  simp only [frameAt, slice]
  congr 1
  omega

theorem frameAt_payload_length {m i L : Nat} {B : List Byte} (h : classify m B = .good i L) :
    (frameAt B i L).payload.length + 2 = L := by
  obtain ⟨hb, hL, -⟩ := classify_good_bound h
  rw [frameAt_payload, List.length_take, List.length_drop]
  omega

theorem frameAt_checksum {m i L : Nat} {B : List Byte} (h : classify m B = .good i L) :
    (frameAt B i L).checksum
      = csum (frameAt B i L).ptype (frameAt B i L).len (frameAt B i L).payload :=
  BitVec.eq_of_toNat_eq ((frameAt_checksum_toNat B i L).trans (classify_good_fields h).2)

/-! ### DECODE of an encoded frame (R115) -/

theorem slice_encodeFrame_payload (a : Addr) (t : Byte) (P : List Byte) :
    slice (encodeFrame a t P) (0 + 9) (0 + 7 + (P.length + 2)) = P := by
  rw [slice, show 0 + 7 + (P.length + 2) - (0 + 9) = P.length by omega]
  exact encodeFrame_payload a t P

theorem rxAt_encodeFrame (a : Addr) (t : Byte) (P : List Byte) :
    rxAt (encodeFrame a t P) 0 (P.length + 2) = (csum t (lenField P) P).toNat := by
  rw [rxAt, show 0 + 7 + (P.length + 2) = 9 + P.length by omega,
    show 0 + 8 + (P.length + 2) = 10 + P.length by omega]
  exact encodeFrame_checksum a t P

theorem csumAt_encodeFrame (a : Addr) (t : Byte) (P : List Byte) :
    csumAt (encodeFrame a t P) 0 (P.length + 2) = (csum t (lenField P) P).toNat := by
  rw [csumAt, slice_encodeFrame_payload]
  rfl

theorem classify_encodeFrame {m : Nat} {P : List Byte} (a : Addr) (t : Byte) (hP : P.length ≤ m)
    (hmax : P.length ≤ maxLenPayload) : classify m (encodeFrame a t P) = .good 0 (P.length + 2) := by
  have hL := lenAt_encodeFrame a t hmax
  have hlen := encodeFrame_length a t P
  rw [← hL]
  refine classify_eq_good (findSync_encodeFrame a t P) (by omega) (by omega) (by omega) ?_
  rw [hL, rxAt_encodeFrame, csumAt_encodeFrame]

/-- The frame value that an address, a type and a payload make (R80, R84, R86). -/
def frameOf (a : Addr) (t : Byte) (P : List Byte) : Frame where
  addr := a
  ptype := t
  len := lenField P
  payload := P
  checksum := csum t (lenField P) P

theorem frameAt_encodeFrame (a : Addr) (t : Byte) (P : List Byte) :
    frameAt (encodeFrame a t P) 0 (P.length + 2) = frameOf a t P := by
  have haddr := encodeFrame_addr a t P
  simp only [frameAt, frameOf, slice_encodeFrame_payload, rxAt_encodeFrame, BitVec.ofNat_toNat,
    BitVec.setWidth_eq, Nat.zero_add, haddr, encodeFrame_type, lenField]

/-- `decode (encode F) = F` (R115). -/
theorem decode_encodeFrame {m : Nat} {P : List Byte} (a : Addr) (t : Byte) (hP : P.length ≤ m)
    (hmax : P.length ≤ maxLenPayload) :
    decode m (encodeFrame a t P) = .ok (frameOf a t P) 0 (11 + P.length) := by
  rw [decode_of_good (classify_encodeFrame a t hP hmax), frameAt_encodeFrame,
    show 0 + 9 + (P.length + 2) = 11 + P.length by omega]

/-! ### A changed payload byte (R116) -/

theorem sumBytes_set {P : List Byte} {j : Nat} (x : Byte) (hj : j < P.length) :
    sumBytes (P.set j x) + (P.getD j 0).toNat = sumBytes P + x.toNat := by
  induction P generalizing j with
  | nil => exact absurd hj (Nat.not_lt_zero j)
  | cons b P ih =>
    cases j with
    | zero => simp [sumBytes]; omega
    | succ j =>
      have := ih (Nat.lt_of_succ_lt_succ hj)
      simp only [sumBytes, List.set_cons_succ, List.map_cons, List.sum_cons, List.getD_cons_succ] at this ⊢
      omega

/-- Two byte values that differ do not agree modulo 65536, so the checksum sees any change of one payload byte. -/
theorem csum_set_ne {P : List Byte} {j : Nat} {x : Byte} (t : Byte) (L : Half) (hj : j < P.length)
    (hx : x ≠ P.getD j 0) : csum t L (P.set j x) ≠ csum t L P := by
  intro h
  have hmod := congrArg BitVec.toNat h
  rw [csum_toNat, csum_toNat] at hmod
  have hsum := sumBytes_set x hj
  have hxlt := x.isLt
  have hplt := (P.getD j 0).isLt
  exact hx (BitVec.eq_of_toNat_eq (by omega))

theorem byteAt_set_of_ne {B : List Byte} {k n : Nat} (x : Byte) (h : k ≠ n) :
    byteAt (B.set k x) n = byteAt B n := by
  simp [byteAt, List.getD_eq_getElem?_getD, List.getElem?_set_ne h]

theorem findSync_encodeFrame_set (a : Addr) (t : Byte) (P : List Byte) (j : Nat) (x : Byte) :
    findSync ((encodeFrame a t P).set (9 + j) x) = some 0 := by
  simp [encodeFrame, findSync, Nat.add_comm 9 j]

theorem lenAt_encodeFrame_set (a : Addr) (t : Byte) (P : List Byte) (j : Nat) (x : Byte) :
    lenAt ((encodeFrame a t P).set (9 + j) x) 0 = lenAt (encodeFrame a t P) 0 := by
  rw [lenAt, byteAt_set_of_ne x (by omega), byteAt_set_of_ne x (by omega), lenAt]

theorem rxAt_encodeFrame_set {P : List Byte} {j : Nat} (a : Addr) (t x : Byte) (hj : j < P.length) :
    rxAt ((encodeFrame a t P).set (9 + j) x) 0 (P.length + 2) = (csum t (lenField P) P).toNat := by
  rw [← rxAt_encodeFrame a t P, rxAt, byteAt_set_of_ne x (by omega), byteAt_set_of_ne x (by omega), rxAt]

theorem csumAt_encodeFrame_set (a : Addr) (t : Byte) (P : List Byte) (j : Nat) (x : Byte) :
    csumAt ((encodeFrame a t P).set (9 + j) x) 0 (P.length + 2) = (csum t (lenField P) (P.set j x)).toNat := by
  have hpay : slice ((encodeFrame a t P).set (9 + j) x) (0 + 9) (0 + 7 + (P.length + 2)) = P.set j x := by
    rw [slice, Nat.zero_add, List.drop_set, if_neg (by omega), Nat.add_sub_cancel_left, List.take_set, ← slice,
      ← Nat.zero_add 9, slice_encodeFrame_payload]
  rw [csumAt, hpay, byteAt_set_of_ne x (by omega)]
  rfl

theorem classify_encodeFrame_set {m : Nat} {P : List Byte} {j : Nat} {x : Byte} (a : Addr) (t : Byte)
    (hP : P.length ≤ m) (hmax : P.length ≤ maxLenPayload) (hj : j < P.length) (hx : x ≠ P.getD j 0) :
    classify m ((encodeFrame a t P).set (9 + j) x) = .csumBad 0 (P.length + 2) := by
  have hL := (lenAt_encodeFrame_set a t P j x).trans (lenAt_encodeFrame a t hmax)
  have hlen : ((encodeFrame a t P).set (9 + j) x).length = 11 + P.length := by simp
  rw [← hL]
  refine classify_eq_csumBad (findSync_encodeFrame_set a t P j x) (by omega) (by omega) (by omega) ?_
  rw [hL, rxAt_encodeFrame_set a t x hj, csumAt_encodeFrame_set]
  exact fun h => csum_set_ne t (lenField P) hj hx (BitVec.eq_of_toNat_eq h.symm)

/-- Flipping a bit changes the byte. -/
theorem xor_twoPow_ne (b : Byte) {bit : Nat} (h : bit < 8) : b ^^^ BitVec.twoPow 8 bit ≠ b := by
  intro heq
  have hbit := congrArg (·.getLsbD bit) heq
  simp [h] at hbit

end Sys2Proof.Codec

namespace Sys2Proof.Machine

open Sys2Proof

theorem exec_csum (t : Byte) (L : Half) (P : List Byte) (s : State) :
    exec (.csum t L P) s = .next (s.answer (.csum (Codec.csum t L P))) := rfl

theorem exec_findSync (B : List Byte) (s : State) :
    exec (.findSync B) s = .next (s.answer (.sync (Codec.findSync B))) := rfl

theorem exec_classify (B : List Byte) (s : State) :
    exec (.classify B) s = .next (s.answer (.verdict (Codec.classify s.params.maxPayload B))) := rfl

theorem exec_decode (B : List Byte) (s : State) :
    exec (.decode B) s = .next (s.answer (.decoded (Codec.decode s.params.maxPayload B))) := rfl

theorem exec_classify_iff (B : List Byte) (v : Codec.Verdict) (s : State) :
    exec (.classify B) s = .next { s with result := some (.verdict v) }
      ↔ Codec.classify s.params.maxPayload B = v := by
  simp [exec_classify, State.answer]

theorem exec_decode_iff (B : List Byte) (d : Codec.Decoded) (s : State) :
    exec (.decode B) s = .next { s with result := some (.decoded d) }
      ↔ Codec.decode s.params.maxPayload B = d := by
  simp [exec_decode, State.answer]

end Sys2Proof.Machine

namespace Sys2Proof.Proofs

open Sys2Proof Sys2Proof.Machine

/-- Settles O7: the frame is `GOOD` at 0 and its fields are read back from their offsets. -/
theorem decodeOfEncodedFrame : Obligations.DecodeOfEncodedFrame := by
  intro a t P s hP
  have hmax : P.length ≤ Codec.maxLenPayload := hP.trans s.params.maxPayload_le
  exact ⟨Codec.encodeFrame a t P, Codec.frameOf a t P, exec_encode_of_le a t hP,
    (exec_decode_iff _ _ s).mpr (Codec.decode_encodeFrame a t hP hmax), rfl, rfl, Codec.lenField_toNat hmax, rfl, rfl⟩

/-- Settles O8: the flip leaves the marker, `LEN` and the received checksum alone and changes the computed one. -/
theorem payloadBitFlipIsDetected : Obligations.PayloadBitFlipIsDetected := by
  intro a t P j bit s hP hj hbit
  exact (exec_classify_iff _ _ s).mpr (Codec.classify_encodeFrame_set a t hP (hP.trans s.params.maxPayload_le) hj
    (Codec.xor_twoPow_ne _ hbit))

/-- Settles O9: the truncated frames by the locality of decided verdicts, the whole frame as in O7. -/
theorem partialFramesNeedMoreData : Obligations.PartialFramesNeedMoreData := by
  intro a t P s hP
  have hmax : P.length ≤ Codec.maxLenPayload := hP.trans s.params.maxPayload_le
  refine ⟨fun B hB hlt => (exec_decode_iff _ _ s).mpr ?_, Codec.frameOf a t P,
    (exec_decode_iff _ _ s).mpr (Codec.decode_encodeFrame a t hP hmax), rfl, rfl, Codec.lenField_toNat hmax, rfl, rfl⟩
  rw [Codec.encodeFrame_length] at hlt
  exact Codec.decode_of_truncated (Codec.classify_encodeFrame a t hP hmax) hB (by omega)

/-- Settles O10: a decided verdict reads only bytes that are there. -/
theorem decidedVerdictsAreLocal : Obligations.DecidedVerdictsAreLocal := by
  intro B T v s hdec hB
  obtain rfl := (exec_classify_iff B v s).mp hB
  exact (exec_classify_iff _ _ s).mpr (Codec.classify_append T hdec)

/-- Settles O1: `csum` as a natural. -/
theorem csumAnswersTheSum : Obligations.CsumAnswersTheSum := fun t L P s =>
  ⟨Codec.csum t L P, Codec.csum_toNat t L P, exec_csum t L P s⟩

/-- Settles O4: `decode` verdict by verdict, and the fields of `frameAt` under `GOOD`. -/
theorem decodeFollowsTheVerdict : Obligations.DecodeFollowsTheVerdict := by
  intro B s
  refine ⟨_, _, exec_classify B s, exec_decode B s, Codec.decode_of_needHdr, fun _ => Codec.decode_of_needBody,
    fun _ _ => Codec.decode_of_malformed, fun _ _ => Codec.decode_of_tooLarge, fun _ _ => Codec.decode_of_csumBad,
    fun i L h => ?_⟩
  have hlen := Codec.frameAt_len_toNat h
  exact ⟨Codec.frameAt B i L, Codec.decode_of_good h, Codec.frameAt_addr_toNat B i L, rfl, hlen,
    Codec.frameAt_payload B, Codec.frameAt_checksum_toNat B i L,
    hlen.trans (Codec.frameAt_payload_length h).symm, Codec.frameAt_checksum h⟩

/-- Settles O11: each codec operation's answer, written out; no other operation is of kind `codec`. -/
theorem codecFunctionsArePure : Obligations.CodecFunctionsArePure := by
  intro i m hkind hdom
  cases i with
  | csum t L P => exact ⟨.csum (Codec.csum t L P), fun s _ => exec_csum t L P s⟩
  | findSync B => exact ⟨.sync (Codec.findSync B), fun s _ => exec_findSync B s⟩
  | classify B => exact ⟨.verdict (Codec.classify m B), fun s hs => hs ▸ exec_classify B s⟩
  | decode B => exact ⟨.decoded (Codec.decode m B), fun s hs => hs ▸ exec_decode B s⟩
  | encode a t P =>
    exact ⟨.frame (Codec.encodeFrame a t P), fun s hs => exec_encode_of_le a t (hs ▸ hdom a t P rfl)⟩
  | _ => simp [opKind] at hkind

end Sys2Proof.Proofs
end

section
/-! PROOFS. What the sources, the link and SEND do in the rules' own words, and O13, O17 and O19 (spec/41_transport.md
R141, R142, R146 and R148). -/

namespace Sys2Proof.Machine

open Sys2Proof

namespace State

/-- Bytes arrive where the link lets them (R141, R142). -/
theorem inject_of_sourceUp {s : State} {c : Chan} (C : List Byte) (h : s.sourceUp c = true) :
    s.inject c C = s.setPend c (s.pend c ++ C) := if_pos h

/-- With the source's link down nothing arrives (R142). -/
theorem inject_of_sourceDown {s : State} {c : Chan} (C : List Byte) (h : s.sourceUp c = false) : s.inject c C = s := by
  simp [inject, h]

/-- The sink's link in R146's words: only S2H needs `usb_up`. -/
theorem sinkUp_iff (s : State) (c : Chan) : s.sinkUp c = true ↔ (c = .s2h → s.usbUp = true) := by
  cases c <;> simp [sinkUp]

/-- With the link down USB_CONNECT brings it up (R148). -/
theorem connect_of_down {s : State} (h : s.usbUp = false) : s.connect = { s with usbUp := true } := by
  simp [connect, h]

/-- With the link up USB_CONNECT has no move (R148). -/
theorem connect_of_up {s : State} (h : s.usbUp = true) : s.connect = s := if_pos h

end State

/-- The chunk of a SEND as bytes of the buffer (R12, R146). -/
theorem Channel.chunk_eq (ch : Channel) (k : Nat) : ch.chunk k = (ch.buf.drop (ch.fwdOff + ch.wr)).take k := by
  simp [Channel.chunk, Codec.slice]

/-- The state after the emission of H2S, field by field: the sink is the UART (R35, R146). -/
theorem State.sent_h2s (s : State) (k : Nat) : s.sent .h2s k = { s with
    uartOut := s.uartOut ++ (s.h2s.buf.drop (s.h2s.fwdOff + s.h2s.wr)).take k
    h2s := { s.h2s with wr := s.h2s.wr + k } } := by
  rw [State.sent, Channel.chunk_eq]
  rfl

/-- The state after the emission of S2H, field by field: the sink is the current USB session (R35, R146). -/
theorem State.sent_s2h (s : State) (k : Nat) : s.sent .s2h k = { s with
    usbCurrent := s.usbCurrent ++ (s.s2h.buf.drop (s.s2h.fwdOff + s.s2h.wr)).take k
    s2h := { s.s2h with wr := s.s2h.wr + k } } := by
  rw [State.sent, Channel.chunk_eq]
  rfl

/-- The guard of the model's SEND is R146's condition. -/
theorem sendEnabled_iff {s : State} {c : Chan} {k : Nat} : sendEnabled s c k = true ↔ SendReady s c k := by
  simp [sendEnabled, SendReady, State.sinkUp_iff, and_assoc]

/-- An enabled SEND inside the frame only emits and advances (R146). -/
theorem exec_send_inside {s : State} {c : Chan} {k : Nat} (h : SendReady s c k)
    (hk : (s.ch c).wr + k < (s.ch c).fwdLen) : exec (.send c k) s = .next (s.sent c k) := by
  rw [exec_send, State.send_inside (sendEnabled_iff.mpr h) hk.ne]

/-- An enabled SEND of the frame's last byte runs COMPLETE in the same step (R146). -/
theorem exec_send_last {s : State} {c : Chan} {k : Nat} (h : SendReady s c k)
    (hk : (s.ch c).wr + k = (s.ch c).fwdLen) : exec (.send c k) s = exec (.complete c) (s.sent c k) := by
  rw [exec_send, State.send_last (sendEnabled_iff.mpr h) hk, exec_complete]

/-- Both cases of an enabled SEND, over a state `t` known to be the one after the emission. -/
theorem exec_send_of_ready {s t : State} {c : Chan} {k : Nat} (h : SendReady s c k) (ht : s.sent c k = t) :
    ((s.ch c).wr + k < (s.ch c).fwdLen → exec (.send c k) s = .next t)
      ∧ ((s.ch c).wr + k = (s.ch c).fwdLen →
          ∃ u, exec (.send c k) s = .next u ∧ exec (.complete c) t = .next u) := by
  subst ht
  exact ⟨exec_send_inside h, fun hk => ⟨_, exec_send_last h hk, exec_complete c _⟩⟩

/-- A SEND that is not enabled has no move (R13). -/
theorem exec_send_of_not_ready {s : State} {c : Chan} {k : Nat} (h : ¬ SendReady s c k) :
    exec (.send c k) s = .next s := by
  rw [exec_send, State.send_disabled (Bool.eq_false_iff.mpr (mt sendEnabled_iff.mp h))]

/-! What `exec` is for the steps of the environment on the sources and the link. -/

theorem exec_injectUart (C : List Byte) (s : State) : exec (.injectUart C) s = .next (s.inject .s2h C) := rfl
theorem exec_injectUsb (C : List Byte) (s : State) : exec (.injectUsb C) s = .next (s.inject .h2s C) := rfl
theorem exec_usbConnect (s : State) : exec .usbConnect s = .next s.connect := rfl

end Sys2Proof.Machine

namespace Sys2Proof.Proofs

open Sys2Proof Sys2Proof.Machine

/-- Settles O13: the UART source is always up (R150), the USB source is up with `usb_up`. -/
theorem injectAppendsToTheSource : Obligations.InjectAppendsToTheSource := by
  intro C s
  refine ⟨?_, fun hup => ?_, fun hdown => ?_⟩
  · rw [exec_injectUart, State.inject_of_sourceUp C rfl]
    rfl
  · have hsrc : s.sourceUp .h2s = true := hup
    rw [exec_injectUsb, State.inject_of_sourceUp C hsrc]
    rfl
  · have hsrc : s.sourceUp .h2s = false := hdown
    rw [exec_injectUsb, State.inject_of_sourceDown C hsrc]

/-- Settles O17: one argument for both sinks, on the state after the emission. -/
theorem sendEmitsAndCompletes : Obligations.SendEmitsAndCompletes := fun k s =>
  ⟨fun hready => exec_send_of_ready hready (State.sent_h2s s k),
    fun hready => exec_send_of_ready hready (State.sent_s2h s k),
    fun _ hnot => exec_send_of_not_ready hnot⟩

/-- Settles O19, by the two values of `usb_up`. -/
theorem connectSetsTheLinkFlag : Obligations.ConnectSetsTheLinkFlag := fun s =>
  ⟨fun hdown => by rw [exec_usbConnect, State.connect_of_down hdown],
    fun hup => by rw [exec_usbConnect, State.connect_of_up hup]⟩

end Sys2Proof.Proofs
end

section
/-! PROOFS. What RESOLVE returns meets the channel's invariant, a candidate that needs more bytes never fills a
buffer, and O15, O26 to O28 (spec/42_bridge.md R170, R176, R179, R184 and R187). -/

namespace Sys2Proof.Codec

open Sys2Proof

/-- A candidate at `i` that still needs bytes has fewer than one largest frame has (R112): a shorter header, or a
legal `LEN` whose bytes are not all there. -/
theorem classify_needBody_short {m i : Nat} {B : List Byte} (h : classify m B = .needBody i) :
    B.length < i + (m + 11) := by
  cases hs : findSync B with
  | none => simp [classify, hs] at h
  | some j =>
    simp only [classify, hs, classifyAt] at h
    split at h
    · cases h; omega
    split at h
    · cases h
    split at h
    · cases h
    split at h
    · cases h; omega
    split at h <;> cases h

end Sys2Proof.Codec

namespace Sys2Proof.Machine

open Sys2Proof

/-! ### The Forwarding registers after a wait and after an acceptance (R27, R175) -/

@[simp] theorem waitIn_fwdOff (ch : Channel) (st : ChSt) : (ch.waitIn st).fwdOff = 0 := rfl
@[simp] theorem waitIn_fwdLen (ch : Channel) (st : ChSt) : (ch.waitIn st).fwdLen = 0 := rfl
@[simp] theorem waitIn_wr (ch : Channel) (st : ChSt) : (ch.waitIn st).wr = 0 := rfl
@[simp] theorem accept_fwdOff (ch : Channel) (i L : Nat) : (ch.accept i L).fwdOff = i := rfl
@[simp] theorem accept_fwdLen (ch : Channel) (i L : Nat) : (ch.accept i L).fwdLen = 9 + L := rfl
@[simp] theorem accept_wr (ch : Channel) (i L : Nat) : (ch.accept i L).wr = 0 := rfl

/-! ### A settled channel -/

/-- Settling writes no byte. -/
theorem Settled.buf_eq {p : Params} {ch ch' : Channel} (h : Settled p ch ch') : ch'.buf = ch.buf := by
  cases h <;> rfl

/-- A settled channel has sent nothing of its frame yet (R170, R175). -/
theorem Settled.wr_eq_zero {p : Params} {ch ch' : Channel} (h : Settled p ch ch') : ch'.wr = 0 := by
  cases h <;> rfl

/-- A settled channel within its capacity meets R40: its verdict fixes the state and the Forwarding registers. -/
theorem Settled.channelInv {p : Params} {ch ch' : Channel} (h : Settled p ch ch') (hb : ch'.buf.length ≤ p.cap) :
    ChannelInv p ch' := by
  cases h with
  | header hv hfull =>
    have hlt : ch.buf.length < p.cap := lt_of_le_of_ne hb hfull
    constructor <;> simp [hv, hlt, hlt.le]
  | body i hv hfull =>
    have hlt : ch.buf.length < p.cap := lt_of_le_of_ne hb hfull
    constructor <;> simp [hv, hlt, hlt.le]
  | good i L hv =>
    constructor <;> simp [hv]
    exact hb

/-! ### RECV in Forwarding -/

/-- `Forwarding` is no wait state, so no read is enabled in it (R143, R179). -/
theorem recvEnabled_of_forwarding {s : State} {c : Chan} (k : Nat) (h : (s.ch c).st = .forwarding) :
    recvEnabled s c k = false := by
  simp [recvEnabled, h, ChSt.isWait]

end Sys2Proof.Machine

namespace Sys2Proof.Proofs

open Sys2Proof Sys2Proof.Machine

/-- Settles O27: RESOLVE ends settled over what is left of the buffer, which is no longer than it was. -/
theorem resolveSettlesTheChannel : Obligations.ResolveSettlesTheChannel := by
  intro c s hcap
  obtain ⟨m, ch, hbuf, hset⟩ := resolveChannel_settled s.params (s.ch c)
  have hleft : ((s.resolve c).ch c).buf = (s.ch c).buf.drop m := by
    rw [State.ch_resolve, hset.buf_eq, hbuf]
  have hlen : ((s.resolve c).ch c).buf.length ≤ s.params.cap := by
    rw [hleft, List.length_drop, cap_eq]
    omega
  rw [← State.ch_resolve] at hset
  exact ⟨s.resolve c, m, exec_resolve c s, (State.params_resolve s c).symm ▸ hset.channelInv hlen,
    State.params_resolve s c, hleft, hset.wr_eq_zero⟩

/-- Settles O28: a candidate at the front of a full buffer would be whole. -/
theorem overrunSparesTheCandidate : Obligations.OverrunSparesTheCandidate := by
  intro p B i hfull hv
  have := Codec.classify_needBody_short hv
  omega

/-- Settles O15: the guard of RECV asks for a wait state. -/
theorem forwardingStopsReads : Obligations.ForwardingStopsReads := by
  intro c k s hst
  have hoff := recvEnabled_of_forwarding k hst
  exact ⟨hoff, by rw [exec_recv, State.recv_disabled hoff]⟩

/-- Settles O26: COMPLETE is RESOLVE on the state without the consumed bytes. -/
theorem completeConsumesTheFrame : Obligations.CompleteConsumesTheFrame := by
  intro c s
  exact ⟨s.complete c, exec_complete c s, by rw [exec_resolve, State.complete_eq]⟩

end Sys2Proof.Proofs
end

section
/-! PROOFS. A stream of bytes without a marker followed by an encoded frame: its verdict and what RESOLVE does on any
part of it (spec/40_codec.md R111 and R112, spec/42_bridge.md R171 and R178). -/

namespace Sys2Proof.Codec

open Sys2Proof

/-! ### The first marker of a stream -/

/-- A first byte that begins no marker only shifts the search (R111). -/
theorem findSync_cons {a : Byte} {B : List Byte} (h : ¬ Machine.MarkerAt (a :: B) 0) :
    findSync (a :: B) = (findSync B).map (· + 1) := by
  cases B with
  | nil => rfl
  | cons b rest =>
    have hm : ¬ (a = syncHi ∧ b = syncLo) := by simpa [Machine.MarkerAt] using h
    rw [findSync, if_neg hm]

/-- A marker that begins before `SYNC_HI` ends before it, since `SYNC_HI` is no `SYNC_LO`. -/
theorem markerAt_of_append {G F : List Byte} {i : Nat} (hi : i < G.length)
    (h : Machine.MarkerAt (G ++ syncHi :: F) i) : Machine.MarkerAt G i := by
  obtain ⟨hhi, hlo⟩ := h
  rw [List.getElem?_append_left hi] at hhi
  refine ⟨hhi, ?_⟩
  rcases Nat.lt_or_ge (i + 1) G.length with hlt | hge
  · rwa [List.getElem?_append_left hlt] at hlo
  · rw [List.getElem?_append_right hge, show i + 1 - G.length = 0 by omega] at hlo
    exact absurd (Option.some.inj hlo) (by decide)

/-- Bytes without a marker before a sequence that begins with one: it is the first marker. -/
theorem findSync_append_of_no_marker {G F : List Byte} (hG : ∀ i, ¬ Machine.MarkerAt G i)
    (hF : findSync (syncHi :: F) = some 0) : findSync (G ++ syncHi :: F) = some G.length := by
  induction G with
  | nil => exact hF
  | cons g G ih =>
    have h0 : ¬ Machine.MarkerAt (g :: (G ++ syncHi :: F)) 0 := fun h =>
      hG 0 (markerAt_of_append (Nat.succ_pos G.length) h)
    have hG' : ∀ i, ¬ Machine.MarkerAt G i := fun i h => hG (i + 1) (by simpa [Machine.MarkerAt] using h)
    rw [List.cons_append, findSync_cons h0, ih hG']
    rfl

/-- Dropping bytes makes no marker. -/
theorem no_marker_drop {G : List Byte} (hG : ∀ i, ¬ Machine.MarkerAt G i) (n i : Nat) :
    ¬ Machine.MarkerAt (G.drop n) i := fun h =>
  hG (n + i) (by simpa [Machine.MarkerAt, Nat.add_assoc] using h)

/-! ### The verdict behind bytes in front -/

theorem byteAt_prepend (G B : List Byte) (k : Nat) : byteAt (G ++ B) (G.length + k) = byteAt B k := by
  simp [byteAt, List.getD_eq_getElem?_getD, List.getElem?_append_right]

theorem slice_prepend (G B : List Byte) (i j : Nat) :
    slice (G ++ B) (G.length + i) (G.length + j) = slice B i j := by
  rw [slice, slice, List.drop_length_add_append, Nat.add_sub_add_left]

theorem lenAt_prepend (G B : List Byte) : lenAt (G ++ B) G.length = lenAt B 0 := by
  simp [lenAt, byteAt_prepend]

theorem rxAt_prepend (G B : List Byte) (L : Nat) : rxAt (G ++ B) G.length L = rxAt B 0 L := by
  simp [rxAt, byteAt_prepend, Nat.add_assoc]

theorem csumAt_prepend (G B : List Byte) (L : Nat) : csumAt (G ++ B) G.length L = csumAt B 0 L := by
  simp [csumAt, byteAt_prepend, slice_prepend, Nat.add_assoc]

/-- Bytes in front that leave the first marker alone move a `GOOD` candidate and change nothing else of it. -/
theorem classify_prepend {m L : Nat} {G B : List Byte} (hs : findSync (G ++ B) = some G.length)
    (h : classify m B = .good 0 L) : classify m (G ++ B) = .good G.length L := by
  obtain ⟨hlen, hL, hm⟩ := classify_good_bound h
  obtain ⟨rfl, hc⟩ := classify_good_fields h
  have hlen' : (G ++ B).length = G.length + B.length := List.length_append
  rw [← lenAt_prepend G B] at hlen hL hm hc ⊢
  refine classify_eq_good hs hL hm (by omega) ?_
  rw [rxAt_prepend, csumAt_prepend, hc]

/-- Bytes without a marker and then an encoded frame: the candidate is the frame, behind those bytes. -/
theorem classify_garbage_encodeFrame {m : Nat} {G P : List Byte} (a : Addr) (t : Byte)
    (hG : ∀ i, ¬ Machine.MarkerAt G i) (hP : P.length ≤ m) (hmax : P.length ≤ maxLenPayload) :
    classify m (G ++ encodeFrame a t P) = .good G.length (P.length + 2) :=
  classify_prepend (findSync_append_of_no_marker hG (findSync_encodeFrame a t P)) (classify_encodeFrame a t hP hmax)

end Sys2Proof.Codec

namespace Sys2Proof.Machine

open Sys2Proof

/-! ### RESOLVE on a part of a stream that ends in a frame -/

/-- On the first bytes of a sequence whose verdict is `GOOD` RESOLVE's only fault is an overrun, on a full buffer that
still needs bytes: any other verdict would be the sequence's own (R118). -/
theorem FaultBranch.overrun_of_good_later {p : Params} {B T : List Byte} {k : DiagKind} {n i L : Nat}
    (h : FaultBranch p B k n) (hg : Codec.classify p.maxPayload (B ++ T) = .good i L) :
    k = .bufferOverrun ∧ n = 1 ∧ B.length = p.cap ∧ T ≠ [] := by
  have later : ∀ v, Codec.classify p.maxPayload B = v → v.Decided → v = .good i L := fun v hv hd =>
    hv.symm.trans ((Codec.classify_append T (hv.symm ▸ hd)).symm.trans hg)
  have more : ∀ v, Codec.classify p.maxPayload B = v → v ≠ .good i L → T ≠ [] := by
    rintro v hv hne rfl
    rw [List.append_nil] at hg
    exact hne (hv.symm.trans hg)
  cases h with
  | overrunHdr hv hfull => exact ⟨rfl, rfl, hfull, more _ hv nofun⟩
  | overrunBody j hv hfull => exact ⟨rfl, rfl, hfull, more _ hv nofun⟩
  | malformed j M hv => cases later _ hv ⟨j, M, by simp⟩
  | tooLarge j M hv => cases later _ hv ⟨j, M, by simp⟩
  | csumBad j M hv => cases later _ hv ⟨j, M, by simp⟩

/-- What RESOLVE does on the first bytes of garbage and a frame: the overruns eat garbage only, and only while the
garbage and the frame together exceed the capacity (R171, R184, R185). -/
structure EatsGarbage (p : Params) (G F B : List Byte) (r : Channel × List DiagKind) (n : Nat) : Prop where
  le : n ≤ G.length
  held : n ≤ B.length
  faults : r.2 = List.replicate n .bufferOverrun
  buf : r.1.buf = B.drop n
  full : n = 0 ∨ p.cap ≤ G.length - n + F.length

/-- A fault-free return eats nothing. -/
theorem EatsGarbage.done (p : Params) (G F : List Byte) (ch : Channel) : EatsGarbage p G F ch.buf (ch, []) 0 where
  le := Nat.zero_le _
  held := Nat.zero_le _
  faults := rfl
  buf := rfl
  full := .inl rfl

/-- An overrun on a full buffer, and then what RESOLVE does on the rest. -/
theorem EatsGarbage.overrun {p : Params} {G F B : List Byte} {r : Channel × List DiagKind} {n : Nat}
    (hG : 1 ≤ G.length) (hB : B.length = p.cap) (hfull : p.cap < G.length + F.length)
    (h : EatsGarbage p (G.drop 1) F (B.drop 1) r n) :
    EatsGarbage p G F B (r.1, .bufferOverrun :: r.2) (n + 1) := by
  obtain ⟨hle, hheld, hfaults, hbuf, hmore⟩ := h
  rw [List.length_drop] at hle hheld hmore
  rw [cap_eq] at hB
  refine ⟨by omega, by omega, by rw [hfaults, List.replicate_succ], ?_, .inr ?_⟩
  · rw [hbuf, List.drop_drop, Nat.add_comm]
  · rcases hmore with rfl | hmore <;> omega

/-- By RESOLVE's iterations: each one that does not return is an overrun, and a full buffer short of the frame's end
has garbage at its front. -/
theorem resolveChannel_eatsGarbage {p : Params} {G P : List Byte} (a : Addr) (t : Byte)
    (hP : P.length ≤ p.maxPayload) (ch : Channel) (hG : ∀ i, ¬ MarkerAt G i)
    (hpre : ch.buf <+: G ++ Codec.encodeFrame a t P) :
    ∃ n, EatsGarbage p G (Codec.encodeFrame a t P) ch.buf (resolveChannel p ch) n := by
  revert G
  refine resolveChannel_induction (Q := fun ch r => ∀ {G : List Byte}, (∀ i, ¬ MarkerAt G i) →
    ch.buf <+: G ++ Codec.encodeFrame a t P → ∃ n, EatsGarbage p G (Codec.encodeFrame a t P) ch.buf r n) ?_ ?_ ch
  · intro ch ch' hs G _ _
    exact ⟨0, hs.buf_eq ▸ .done p G _ ch'⟩
  · intro ch k n r hb ih G hG hpre
    obtain ⟨T, hT⟩ := hpre
    have hgood := Codec.classify_garbage_encodeFrame a t hG hP (hP.trans p.maxPayload_le)
    obtain ⟨rfl, rfl, hfull, hne⟩ := hb.overrun_of_good_later (hT.symm ▸ hgood)
    have hTpos := List.length_pos_iff.mpr hne
    have hlen := hT ▸ List.length_append (as := ch.buf) (bs := T)
    rw [List.length_append, hfull] at hlen
    have hpos : 1 ≤ G.length := by
      rw [Codec.encodeFrame_length, cap_eq] at hlen
      omega
    have hrest : (ch.errorDrop 1).buf <+: G.drop 1 ++ Codec.encodeFrame a t P := by
      rw [← List.drop_append_of_le_length hpos, ← hT]
      exact List.IsPrefix.drop ⟨T, rfl⟩ 1
    obtain ⟨n, hn⟩ := ih (Codec.no_marker_drop hG 1) hrest
    exact ⟨n + 1, hn.overrun hpos hfull (by omega)⟩

end Sys2Proof.Machine
end

section
/-! PROOFS. A channel that is fed garbage and a frame by any arrivals, reads and timeouts, a SEND of a whole frame, and
O31 (spec/42_bridge.md R185). -/

namespace Sys2Proof.Machine

open Sys2Proof

/-! ### The records of a feed -/

/-- Besides timeouts the records since `s` are exactly `d` overruns of channel `c`. -/
def OverrunsSince (c : Chan) (s u : State) (d : Nat) : Prop :=
  ∃ rs, u.diag = s.diag ++ rs
    ∧ rs.filter (fun r => decide (r.kind ≠ .transportTimeout))
      = List.replicate d { kind := .bufferOverrun, origin := originOf c }

theorem OverrunsSince.refl (c : Chan) (s : State) : OverrunsSince c s s 0 := ⟨[], by simp, rfl⟩

/-- A step that raises nothing. -/
theorem OverrunsSince.silent {c : Chan} {s u v : State} {d : Nat} (h : OverrunsSince c s u d)
    (hv : v.diag = u.diag) : OverrunsSince c s v d := by
  rwa [OverrunsSince, hv]

/-- A step that raises one timeout. -/
theorem OverrunsSince.timeout {c : Chan} {s u : State} {d : Nat} (h : OverrunsSince c s u d) :
    OverrunsSince c s (u.raise [.transportTimeout] (originOf c)) d := by
  obtain ⟨rs, hdiag, hrs⟩ := h
  exact ⟨rs ++ [⟨.transportTimeout, originOf c⟩], by simp [hdiag], by simpa using hrs⟩

/-- A step that raises `n` overruns. -/
theorem OverrunsSince.overruns {c : Chan} {s u v : State} {d n : Nat} (h : OverrunsSince c s u d)
    (hv : v.diag = (u.raise (List.replicate n .bufferOverrun) (originOf c)).diag) :
    OverrunsSince c s v (d + n) := by
  obtain ⟨rs, hdiag, hrs⟩ := h
  refine ⟨rs ++ List.replicate n ⟨.bufferOverrun, originOf c⟩, by simp [hv, hdiag], ?_⟩
  rw [List.filter_append, hrs, List.filter_replicate, if_pos (by simp), List.replicate_append_replicate]

/-! ### What an enabled step of a feed is -/

theorem recvEnabled_bounds {s : State} {c : Chan} {k : Nat} (h : recvEnabled s c k = true) :
    1 ≤ k ∧ k ≤ s.freeSpace c := by
  simp only [recvEnabled, Bool.and_eq_true, decide_eq_true_eq] at h
  obtain ⟨⟨⟨⟨⟨-, hpos⟩, hroom⟩, -⟩, -⟩, -⟩ := h
  exact ⟨hpos, hroom⟩

/-- The channel that an enabled RECV hands to RESOLVE (R143). -/
abbrev State.filled (s : State) (c : Chan) (k : Nat) : Channel :=
  { s.ch c with buf := (s.ch c).buf ++ (s.pend c).take k }

/-- The chunk moves from the source to the buffer. -/
theorem State.filled_buf_append (s : State) (c : Chan) (k : Nat) :
    (s.filled c k).buf ++ (s.pend c).drop k = (s.ch c).buf ++ s.pend c := by
  rw [List.append_assoc, List.take_append_drop]

/-- An enabled RECV leaves the channel as RESOLVE does on the filled buffer. -/
theorem State.ch_recv {s : State} {c : Chan} {k : Nat} (h : recvEnabled s c k = true) :
    (s.recv c k).ch c = (resolveChannel s.params (s.filled c k)).1 := by
  simp [recv_enabled h]

/-- An enabled RECV takes the chunk off the source. -/
theorem State.pend_recv {s : State} {c : Chan} {k : Nat} (h : recvEnabled s c k = true) :
    (s.recv c k).pend c = (s.pend c).drop k := by
  simp [recv_enabled h]

/-- An enabled RECV records what RESOLVE raises on the filled buffer. -/
theorem State.diag_recv {s : State} {c : Chan} {k : Nat} (h : recvEnabled s c k = true) :
    (s.recv c k).diag = (s.raise (resolveChannel s.params (s.filled c k)).2 (originOf c)).diag := by
  simp [recv_enabled h, resolve_eq]

/-- An enabled TIMEOUT (R145). -/
theorem State.timeout_enabled {s : State} {c : Chan} (h : timeoutEnabled s c = true) :
    s.timeout c = s.raise [.transportTimeout] (originOf c) := if_pos h

/-- An enabled step that feeds channel `c` is an arrival on its source, a read or a timeout (R141, R142, R143,
R145). -/
theorem feeds_cases {c : Chan} {i : Instr} {s : State} (hf : Feeds c i) (he : enabled s i = true) :
    (∃ C, exec i s = .next (s.setPend c (s.pend c ++ C)) ∧ ∀ is, arrivals (i :: is) = C ++ arrivals is)
      ∨ (∃ k, recvEnabled s c k = true ∧ exec i s = .next (s.recv c k)
          ∧ ∀ is, arrivals (i :: is) = arrivals is)
      ∨ (exec i s = .next (s.raise [.transportTimeout] (originOf c))
          ∧ ∀ is, arrivals (i :: is) = arrivals is) := by
  cases i with
  | injectUart C =>
    obtain rfl : c = .s2h := hf
    exact .inl ⟨C, by rw [exec_injectUart, State.inject_of_sourceUp C rfl], fun _ => rfl⟩
  | injectUsb C =>
    obtain rfl : c = .h2s := hf
    have hup : s.sourceUp .h2s = true := he
    exact .inl ⟨C, by rw [exec_injectUsb, State.inject_of_sourceUp C hup], fun _ => rfl⟩
  | recv c' k =>
    obtain rfl : c' = c := hf
    exact .inr (.inl ⟨k, he, exec_recv c' k s, fun _ => rfl⟩)
  | timeout c' =>
    obtain rfl : c' = c := hf
    exact .inr (.inr ⟨by rw [exec_timeout, State.timeout_enabled he], fun _ => rfl⟩)
  | _ => exact hf.elim

/-! ### The invariant of a feed -/

/-- State `u` stands between `s` and the end of a feed of `G ++ F` to channel `c`: the bytes `R` are still to arrive,
overruns have eaten the first `d` bytes, all of them garbage, and the channel is settled. -/
structure Feeding (c : Chan) (G F R : List Byte) (s u : State) (d : Nat) : Prop where
  params : u.params = s.params
  stream : (u.ch c).buf ++ u.pend c ++ R = G.drop d ++ F
  fits : (u.ch c).buf.length ≤ s.params.cap
  settled : ∃ ch, Settled s.params ch (u.ch c)
  garbage : d ≤ G.length
  full : d = 0 ∨ s.params.cap ≤ G.length - d + F.length
  sink : u.sink c = s.sink c
  records : OverrunsSince c s u d

/-- RESOLVE returns at once on a channel in its reset state: nothing is buffered (R170). -/
theorem resolveOnce_reset (p : Params) : resolveOnce p Channel.reset = .done Channel.reset := by
  simp [resolveOnce, needMore, Codec.classify, Codec.findSync, Channel.reset, Channel.waitIn, cap_eq]

/-- A channel in its reset state is settled. -/
theorem settled_reset (p : Params) : Settled p Channel.reset Channel.reset :=
  .header rfl (by rw [cap_eq]; exact nofun)

theorem Feeding.start {c : Chan} {s : State} (G F : List Byte) (hch : s.ch c = Channel.reset) (hpend : s.pend c = []) :
    Feeding c G F (G ++ F) s s 0 where
  params := rfl
  stream := by rw [hch, hpend]; rfl
  fits := by rw [hch]; exact Nat.zero_le _
  settled := ⟨_, hch ▸ settled_reset s.params⟩
  garbage := Nat.zero_le _
  full := .inl rfl
  sink := rfl
  records := .refl c s

/-- A step that leaves the channel and its sink alone, and moves at most the line between what has arrived and what is
still to come. -/
theorem Feeding.unread {c : Chan} {G F R R' : List Byte} {s u v : State} {d : Nat} (h : Feeding c G F R s u d)
    (hparams : v.params = u.params) (hch : v.ch c = u.ch c) (hpend : v.pend c ++ R' = u.pend c ++ R)
    (hsink : v.sink c = u.sink c) (hrec : OverrunsSince c s v d) : Feeding c G F R' s v d where
  params := hparams.trans h.params
  stream := by rw [hch, List.append_assoc, hpend, ← List.append_assoc, h.stream]
  fits := hch ▸ h.fits
  settled := hch ▸ h.settled
  garbage := h.garbage
  full := h.full
  sink := hsink.trans h.sink
  records := hrec

/-- Bytes arrive. -/
theorem Feeding.arrive {c : Chan} {G F R C : List Byte} {s u : State} {d : Nat} (h : Feeding c G F (C ++ R) s u d) :
    Feeding c G F R s (u.setPend c (u.pend c ++ C)) d :=
  h.unread (by simp) (by simp) (by simp) (by simp) (h.records.silent (by simp))

/-- A read times out. -/
theorem Feeding.timeout {c : Chan} {G F R : List Byte} {s u : State} {d : Nat} (h : Feeding c G F R s u d) :
    Feeding c G F R s (u.raise [.transportTimeout] (originOf c)) d :=
  h.unread (by simp) (by simp) (by simp) (by simp) h.records.timeout

/-- A read moves bytes from the source to the buffer, and then RESOLVE eats garbage at most. -/
theorem Feeding.recv {c : Chan} {G R P : List Byte} {a : Addr} {t : Byte} {s u : State} {d k : Nat}
    (hP : P.length ≤ s.params.maxPayload) (hG : ∀ i, ¬ MarkerAt G i)
    (h : Feeding c G (Codec.encodeFrame a t P) R s u d) (hk : recvEnabled u c k = true) :
    ∃ n, Feeding c G (Codec.encodeFrame a t P) R s (u.recv c k) (d + n) := by
  have hstream : (u.filled c k).buf ++ ((u.pend c).drop k ++ R) = G.drop d ++ Codec.encodeFrame a t P := by
    rw [← List.append_assoc, State.filled_buf_append, h.stream]
  obtain ⟨n, hle, hheld, hfaults, hbuf, hfull⟩ :=
    resolveChannel_eatsGarbage a t hP (u.filled c k) (Codec.no_marker_drop hG d) ⟨_, hstream⟩
  rw [← h.params, ← State.ch_recv hk] at hbuf
  rw [List.length_drop] at hle hfull
  have hd := h.garbage
  refine ⟨n, ?_⟩
  constructor
  case params => rw [State.params_recv, h.params]
  case stream =>
    rw [hbuf, State.pend_recv hk, List.append_assoc, ← List.drop_append_of_le_length hheld, hstream,
      List.drop_append_of_le_length (by rw [List.length_drop]; exact hle), List.drop_drop]
  case fits =>
    obtain ⟨hpos, hroom⟩ := recvEnabled_bounds hk
    rw [State.freeSpace, h.params] at hroom
    rw [hbuf, List.length_drop, List.length_append, List.length_take]
    omega
  case settled =>
    obtain ⟨-, ch, -, hset⟩ := resolveChannel_settled s.params (u.filled c k)
    exact ⟨ch, by rwa [State.ch_recv hk, h.params]⟩
  case garbage => omega
  case full =>
    have := h.full
    omega
  case sink => rw [State.sink_recv, h.sink]
  case records => exact h.records.overruns (by rw [State.diag_recv hk, h.params, hfaults])

/-- Every enabled step that feeds the channel keeps the invariant. -/
theorem Feeding.step {c : Chan} {G P : List Byte} {a : Addr} {t : Byte} {s u : State} {d : Nat} {i : Instr}
    {is : List Instr} (hP : P.length ≤ s.params.maxPayload) (hG : ∀ i, ¬ MarkerAt G i)
    (h : Feeding c G (Codec.encodeFrame a t P) (arrivals (i :: is)) s u d) (hf : Feeds c i)
    (he : enabled u i = true) :
    ∃ v d', exec i u = .next v ∧ Feeding c G (Codec.encodeFrame a t P) (arrivals is) s v d' := by
  rcases feeds_cases hf he with ⟨C, hx, harr⟩ | ⟨k, hk, hx, harr⟩ | ⟨hx, harr⟩
  · exact ⟨_, d, hx, (harr is ▸ h).arrive⟩
  · obtain ⟨n, hn⟩ := (harr is ▸ h).recv hP hG hk
    exact ⟨_, d + n, hx, hn⟩
  · exact ⟨_, d, hx, (harr is ▸ h).timeout⟩

/-- Every enabled run that feeds the channel keeps the invariant. -/
theorem Feeding.follow {c : Chan} {G P : List Byte} {a : Addr} {t : Byte} {s u v : State} {d : Nat}
    {is : List Instr} (hP : P.length ≤ s.params.maxPayload) (hG : ∀ i, ¬ MarkerAt G i)
    (h : Feeding c G (Codec.encodeFrame a t P) (arrivals is) s u d) (hf : ∀ i ∈ is, Feeds c i)
    (he : AllEnabled is u) (hrun : follow is u = .next v) :
    ∃ d', Feeding c G (Codec.encodeFrame a t P) [] s v d' := by
  induction is generalizing u d with
  | nil =>
    obtain rfl : u = v := by simpa [Machine.follow] using hrun
    exact ⟨d, h⟩
  | cons i is ih =>
    obtain ⟨hi, hrest⟩ := he
    obtain ⟨w, d', hx, hw⟩ := h.step hP hG (hf i (by simp)) hi
    exact ih hw (fun j hj => hf j (List.mem_cons_of_mem i hj)) (hrest w hx) (by simpa [Machine.follow, hx] using hrun)

/-! ### The end of a feed -/

/-- A settled channel whose verdict is `GOOD` has accepted the candidate (R175). -/
theorem Settled.eq_accept {p : Params} {ch ch' : Channel} {i L : Nat} (h : Settled p ch ch')
    (hg : Codec.classify p.maxPayload ch'.buf = .good i L) : ch' = ch.accept i L := by
  rw [h.buf_eq] at hg
  cases h with
  | header hv _ => cases hv.symm.trans hg
  | body j hv _ => cases hv.symm.trans hg
  | good j M hv => cases hv.symm.trans hg; rfl

/-- The channel of a finished feed, with `d` bytes of the garbage lost: all that is left is buffered and the frame is
accepted (R175). -/
def acceptedAfter (G F : List Byte) (d : Nat) : Channel where
  buf := G.drop d ++ F
  st := .forwarding
  fwdOff := G.length - d
  fwdLen := F.length
  wr := 0

/-- The frame it forwards is `F`. -/
theorem acceptedAfter_frame (G F : List Byte) (d : Nat) :
    ((acceptedAfter G F d).buf.drop (acceptedAfter G F d).fwdOff).take (acceptedAfter G F d).fwdLen = F := by
  simp [acceptedAfter, ← List.length_drop]

/-- Nothing stands behind the frame. -/
theorem acceptedAfter_drop_frame (G F : List Byte) (d : Nat) :
    (acceptedAfter G F d).buf.drop ((acceptedAfter G F d).fwdOff + (acceptedAfter G F d).fwdLen) = [] := by
  simp [acceptedAfter]

/-- At the end of the feed, with the source empty, the channel has accepted the frame. -/
theorem Feeding.accepted {c : Chan} {G P : List Byte} {a : Addr} {t : Byte} {s u : State} {d : Nat}
    (hP : P.length ≤ s.params.maxPayload) (hG : ∀ i, ¬ MarkerAt G i)
    (h : Feeding c G (Codec.encodeFrame a t P) [] s u d) (hpend : u.pend c = []) :
    u.ch c = acceptedAfter G (Codec.encodeFrame a t P) d := by
  have hbuf : (u.ch c).buf = G.drop d ++ Codec.encodeFrame a t P := by simpa [hpend] using h.stream
  obtain ⟨ch, hset⟩ := h.settled
  have hgood := Codec.classify_garbage_encodeFrame a t (Codec.no_marker_drop hG d) hP (hP.trans s.params.maxPayload_le)
  have hch := hset.eq_accept (hbuf ▸ hgood)
  rw [hset.buf_eq] at hbuf
  rw [hch, Channel.accept, acceptedAfter, hbuf, List.length_drop, Codec.encodeFrame_length,
    show 9 + (P.length + 2) = 11 + P.length by omega]

/-- The bytes lost are those by which the stream exceeds the capacity. -/
theorem Feeding.lost {c : Chan} {G F : List Byte} {s u : State} {d : Nat} (h : Feeding c G F [] s u d)
    (hpend : u.pend c = []) : d = G.length + F.length - s.params.cap := by
  have hlen := congrArg List.length h.stream
  simp only [hpend, List.append_nil, List.length_append, List.length_drop] at hlen
  have hfits := h.fits
  have hd := h.garbage
  have hfull := h.full
  omega

/-- RESOLVE leaves a channel in its reset state alone. -/
theorem State.resolve_reset (s : State) (c : Chan) :
    (s.setCh c Channel.reset).resolve c = s.setCh c Channel.reset := by
  rw [State.resolve_eq, State.ch_setCh, resolveChannel_done (resolveOnce_reset _), State.setCh_setCh, State.raise_nil]

/-- One SEND of the whole frame at the end of the buffer (R146, R176): the sink gets the frame and the channel is in
its reset state. -/
theorem exec_send_whole {u : State} {c : Chan} {G F : List Byte} {d : Nat} (hch : u.ch c = acceptedAfter G F d)
    (hF : 1 ≤ F.length) (hup : u.sinkUp c = true) :
    exec (.send c F.length) u = .next ((u.emit c F).setCh c Channel.reset) := by
  have hready : SendReady u c F.length := by
    rw [SendReady, hch]
    exact ⟨rfl, hF, le_rfl, (State.sinkUp_iff u c).mp hup⟩
  have hchunk : (acceptedAfter G F d).chunk F.length = F :=
    (Channel.chunk_eq _ _).trans (acceptedAfter_frame G F d)
  have hsent : (u.sent c F.length).complete c = ((u.emit c F).setCh c Channel.reset).resolve c := by
    rw [State.complete_eq, State.sent, hch, hchunk, State.ch_setCh, State.setCh_setCh,
      acceptedAfter_drop_frame, Channel.reset]
  rw [exec_send_last hready (by rw [hch]; exact Nat.zero_add _), exec_complete, hsent, State.resolve_reset]

end Sys2Proof.Machine

namespace Sys2Proof.Proofs

open Sys2Proof Sys2Proof.Machine

/-- Settles O31: the invariant of a feed holds at the start and through every enabled step, and with nothing left to
arrive or to read it says that the frame was accepted and how much of the garbage was lost. -/
theorem garbageThenFrameYieldsTheFrame : Obligations.GarbageThenFrameYieldsTheFrame := by
  intro c G a t P is s u hP hG hch hpend hfeeds hen harr hrun hread
  obtain ⟨d, hfed⟩ := (harr ▸ Feeding.start G _ hch hpend).follow hP hG hfeeds hen hrun
  have hacc := hfed.accepted hP hG hread
  have hlen := Codec.encodeFrame_length a t P
  have hlost : d = G.length + (11 + P.length) - (s.params.maxPayload + 11) := by
    rw [hfed.lost hread, hlen, cap_eq]
  refine ⟨by rw [hacc]; rfl, by rw [hacc]; rfl, by rw [hacc, acceptedAfter_frame], hfed.sink,
    hlost ▸ hfed.records, fun hup => ?_⟩
  rw [show (u.ch c).fwdLen = (Codec.encodeFrame a t P).length by rw [hacc]; rfl]
  exact exec_send_whole hacc (by omega) hup

end Sys2Proof.Proofs
end

section
/-! PROOFS. An enabled SAMPLE and a run of them, what a short pulse leaves unchanged, and O34, O37 and O41
(spec/43_event_monitor.md R201, R204 and R207). -/

namespace Sys2Proof.Machine

open Sys2Proof

namespace EventMonitor

/-! ### The cases of SAMPLE and COMMIT as equations -/

/-- A sample at another level starts a new candidate (R201). -/
theorem observe_of_ne {e : EventMonitor} {v : Bool} (t : Nat) (h : v ≠ e.cand) :
    e.observe v t = { e with lastT := t, cand := v, candSince := t } := if_pos h

/-- A sample at the candidate's level only advances time (R201). -/
theorem observe_of_eq {e : EventMonitor} {v : Bool} (t : Nat) (h : v = e.cand) :
    e.observe v t = { e with lastT := t } := if_neg (not_not.mpr h)

/-- A candidate that is the debounced level or has not stood for its window is not committed (R202). -/
theorem commit_of_not_due {p : Params} {e : EventMonitor} {t : Nat}
    (h : e.cand = e.deb ∨ t < e.candSince + p.debounceT) : e.commit p t = e := by
  rcases commit_cases p e t with ⟨-, hsame⟩ | ⟨hne, hdue, -⟩
  · exact hsame
  · rcases h with heq | hearly
    · exact absurd heq hne
    · omega

/-- The monitor after an enabled `SAMPLE(v, t)`: the observation and then COMMIT (R201). -/
def sampled (p : Params) (e : EventMonitor) (v : Bool) (t : Nat) : EventMonitor := (e.observe v t).commit p t

end EventMonitor

/-- An enabled SAMPLE changes the monitor alone (R201). -/
theorem exec_sample_of_le {s : State} {t : Nat} (v : Bool) (h : s.evm.lastT ≤ t) :
    exec (.sample v t) s = .next { s with evm := s.evm.sampled s.params v t } := by
  rw [exec_sample, State.sample, if_neg (Nat.not_lt.mpr h), EventMonitor.sampled]

theorem exec_commit (t : Nat) (s : State) : exec (.commit t) s = .next { s with evm := s.evm.commit s.params t } := rfl

theorem exec_publish (e : EventState) (s : State) : exec (.publish e) s = .next { s with evm := s.evm.publish e } := rfl

/-! ### Runs of enabled samples -/

/-- An operation that answers a next state hands it to the rest of the sequence. -/
theorem follow_cons_of_next {i : Instr} {is : List Instr} {s t : State} (h : exec i s = .next t) :
    follow (i :: is) s = follow is t := by
  simp [follow, h]

/-- What each sample of a sequence keeps of the monitor, the whole enabled run keeps. -/
theorem follow_samples_keeps {I : EventMonitor → Prop} {xs : List (Bool × Nat)} {s : State}
    (hstep : ∀ x ∈ xs, ∀ e, I e → e.lastT ≤ x.2 → I (e.sampled s.params x.1 x.2)) (hI : I s.evm)
    (hen : AllEnabled (xs.map fun x => Instr.sample x.1 x.2) s) :
    ∃ u, follow (xs.map fun x => Instr.sample x.1 x.2) s = .next u ∧ I u.evm := by
  induction xs generalizing s with
  | nil => exact ⟨s, rfl, hI⟩
  | cons x xs ih =>
    obtain ⟨hx, hrest⟩ := hen
    have hle : s.evm.lastT ≤ x.2 := of_decide_eq_true hx
    have hnext := exec_sample_of_le x.1 hle
    obtain ⟨u, hrun, hu⟩ := ih (s := { s with evm := s.evm.sampled s.params x.1 x.2 })
      (fun y hy => hstep y (List.mem_cons_of_mem x hy)) (hstep x List.mem_cons_self _ hI hle) (hrest _ hnext)
    exact ⟨u, (follow_cons_of_next hnext).trans hrun, hu⟩

/-! ### A short pulse -/

/-- Monitor `e` has committed nothing since `e₀`, and a high candidate was first seen at `t₀` or later. -/
structure Uncommitted (t₀ : Nat) (e₀ e : EventMonitor) : Prop where
  ev : e.ev = e₀.ev
  deb : e.deb = false
  slot : e.slot = e₀.slot
  since : e.cand = true → t₀ ≤ e.candSince

/-- A sample of the pulse: high at the candidate's level, it comes too early to commit; low, there is nothing to
commit. -/
theorem Uncommitted.sampled {t₀ h t : Nat} {v : Bool} {p : Params} {e₀ e : EventMonitor} (hinv : Uncommitted t₀ e₀ e)
    (hh : h < p.debounceT) (hv : v = true ↔ t₀ ≤ t ∧ t < t₀ + h) : Uncommitted t₀ e₀ (e.sampled p v t) := by
  have hsince : v = true → t₀ ≤ (e.observe v t).candSince := by
    intro hhigh
    rw [EventMonitor.observe_candSince]
    split
    case isTrue => exact (hv.mp hhigh).1
    case isFalse hsame => exact hinv.since (not_not.mp hsame ▸ hhigh)
  have hkeep : e.sampled p v t = e.observe v t := by
    refine EventMonitor.commit_of_not_due ?_
    rw [EventMonitor.observe_cand, EventMonitor.observe_deb, hinv.deb]
    cases v with
    | false => exact .inl rfl
    | true =>
      have hlate := hsince rfl
      obtain ⟨-, hend⟩ := hv.mp rfl
      exact .inr (by omega)
  rw [hkeep]
  exact ⟨by simp [hinv.ev], by simp [hinv.deb], by simp [hinv.slot], by simpa using hsince⟩

end Sys2Proof.Machine

namespace Sys2Proof.Proofs

open Sys2Proof Sys2Proof.Machine

/-- Settles O34, by the two cases of the observation. -/
theorem sampleRecordsAndCommits : Obligations.SampleRecordsAndCommits := by
  intro v t s hle
  refine ⟨_, exec_sample_of_le v hle, fun hne => ?_, fun heq => ?_⟩
  · rw [exec_commit, EventMonitor.sampled, EventMonitor.observe_of_ne t hne]
  · rw [exec_commit, EventMonitor.sampled, EventMonitor.observe_of_eq t heq]

/-- Settles O37: PUBLISH writes the slot without reading it. -/
theorem publishOverwritesTheSlot : Obligations.PublishOverwritesTheSlot := exec_publish

/-- Settles O41: a high candidate of the pulse is no older than `t0`, and the pulse ends before its window does. -/
theorem shortPulsesAreRejected : Obligations.ShortPulsesAreRejected := by
  intro t0 h xs s hh hdeb hcand hline hen
  have hstart : Uncommitted t0 s.evm s.evm := ⟨rfl, hdeb, rfl, by simp [hcand]⟩
  obtain ⟨u, hrun, hend⟩ := follow_samples_keeps (fun x hx e he _ => he.sampled hh (hline x hx)) hstart hen
  exact ⟨u, hrun, hend.ev, hend.deb, hend.slot⟩

end Sys2Proof.Proofs
end

section
/-! PROOFS. What each operation can do, said once, the channel invariant by the state it is in, and O33
(spec/10_state.md section 7). -/

namespace Sys2Proof.Machine

open Sys2Proof

/-- Every effect an operation can have on the state, one constructor per named operation of Machine/Ops.lean.  The
operation itself is named where a statement asks which one it was. -/
inductive Effect (i : Instr) (s : State) : State → Prop where
  | answer (r : Result) : Effect i s (s.answer r)
  | refuse (m : Mark) : Effect i s (s.refuse m)
  | inject (c : Chan) (C : List Byte) : Effect i s (s.inject c C)
  | recv (c : Chan) (k : Nat) : Effect i s (s.recv c k)
  | timeout (c : Chan) (h : i = .timeout c) : Effect i s (s.timeout c)
  | send (c : Chan) (k : Nat) : Effect i s (s.send c k)
  | connect : Effect i s s.connect
  | disconnect (h : i = .usbDisconnect) : Effect i s s.disconnect
  | resolve (c : Chan) (h : i = .resolve c) : Effect i s (s.resolve c)
  | complete (c : Chan) (h : i = .complete c) : Effect i s (s.complete c)
  | sample (v : Bool) (t : Nat) : Effect i s (s.sample v t)
  | commit (t : Nat) : Effect i s { s with evm := s.evm.commit s.params t }
  | publish (e : EventState) : Effect i s { s with evm := s.evm.publish e }
  | take : Effect i s s.take
  | transition (d : Bool) (h : i = .transition d) : Effect i s { s with evm := s.evm.transition d }
  | reset : Effect i s s.toReset
  | deliver (c : Chan) (F : List Byte) : Effect i s (s.deliver c F)

/-- Every operation answers a next state (R236, R264), and by one of these effects. -/
theorem exec_effect (i : Instr) (s : State) : ∃ t, exec i s = .next t ∧ Effect i s t := by
  cases i with
  | csum t L P => exact ⟨_, exec_csum t L P s, .answer _⟩
  | findSync B => exact ⟨_, exec_findSync B s, .answer _⟩
  | classify B => exact ⟨_, exec_classify B s, .answer _⟩
  | decode B => exact ⟨_, exec_decode B s, .answer _⟩
  | encode a t P =>
    refine ⟨_, rfl, ?_⟩
    split
    · exact .refuse _
    · exact .answer _
  | injectUart C => exact ⟨_, exec_injectUart C s, .inject _ C⟩
  | injectUsb C => exact ⟨_, exec_injectUsb C s, .inject _ C⟩
  | recv c k => exact ⟨_, exec_recv c k s, .recv c k⟩
  | timeout c => exact ⟨_, exec_timeout c s, .timeout c rfl⟩
  | send c k => exact ⟨_, exec_send c k s, .send c k⟩
  | usbConnect => exact ⟨_, exec_usbConnect s, .connect⟩
  | usbDisconnect => exact ⟨_, rfl, .disconnect rfl⟩
  | resolve c => exact ⟨_, exec_resolve c s, .resolve c rfl⟩
  | complete c => exact ⟨_, exec_complete c s, .complete c rfl⟩
  | sample v t => exact ⟨_, exec_sample v t s, .sample v t⟩
  | commit t => exact ⟨_, exec_commit t s, .commit t⟩
  | publish e => exact ⟨_, exec_publish e s, .publish e⟩
  | take => exact ⟨_, rfl, .take⟩
  | reset => exact ⟨_, rfl, .reset⟩
  | transition d => exact ⟨_, rfl, .transition d rfl⟩
  | reserved14to17 x => exact ⟨_, rfl, .refuse _⟩
  | reserved18to1F x => exact ⟨_, rfl, .refuse _⟩
  | sync c => exact ⟨_, rfl, .deliver c _⟩
  | cmd c a P => exact ⟨_, rfl, .deliver c _⟩
  | data c a P => exact ⟨_, rfl, .deliver c _⟩
  | ack c a P => exact ⟨_, rfl, .deliver c _⟩
  | eod c a P => exact ⟨_, rfl, .deliver c _⟩
  | typeOther c t a P => exact ⟨_, rfl, .deliver c _⟩

/-- The inversion of `exec`. -/
theorem effect_of_exec {i : Instr} {s t : State} (h : exec i s = .next t) : Effect i s t := by
  obtain ⟨u, hu, he⟩ := exec_effect i s
  cases hu.symm.trans h
  exact he

end Sys2Proof.Machine

namespace Sys2Proof.Codec

open Sys2Proof

/-- A sequence that still holds the first marker has it there. -/
theorem findSync_of_append {B T : List Byte} {i : Nat} (h : findSync (B ++ T) = some i) (hi : i + 2 ≤ B.length) :
    findSync B = some i := by
  induction B generalizing i with
  | nil => simp at hi
  | cons a B ih =>
    cases B with
    | nil => simp at hi
    | cons b rest =>
      by_cases hm : a = syncHi ∧ b = syncLo
      · simpa [findSync, hm] using h
      · simp only [List.cons_append, findSync, if_neg hm, Option.map_eq_some_iff] at h ⊢
        obtain ⟨j, hj, rfl⟩ := h
        exact ⟨j, ih hj (by simp at hi ⊢; omega), rfl⟩

/-- `GOOD(i, L)` is a verdict on the candidate at the first marker. -/
theorem findSync_of_good {m i L : Nat} {B : List Byte} (h : classify m B = .good i L) : findSync B = some i := by
  rcases classify_cases m B with ⟨-, hv⟩ | ⟨j, -, hv⟩ | ⟨j, -, -, -, hv⟩ | ⟨j, -, -, -, -, hv⟩
    | ⟨j, -, -, -, -, -, hv⟩ | ⟨j, hs, -, -, -, -, hv⟩ <;> cases hv.symm.trans h
  exact hs

/-- An accepted frame is accepted without the bytes behind it: the converse of R118 for `GOOD`. -/
theorem classify_take_of_good {m i L : Nat} {B : List Byte} (h : classify m B = .good i L) :
    classify m (B.take (i + 9 + L)) = .good i L := by
  obtain ⟨hb, hL, hm⟩ := classify_good_bound h
  obtain ⟨hlen, hck⟩ := classify_good_fields h
  have hsync := findSync_of_good h
  have htake : (B.take (i + 9 + L)).length = i + 9 + L := by rw [List.length_take]; omega
  rw [← List.take_append_drop (i + 9 + L) B] at hsync hlen hck
  rw [lenAt_append _ (by omega)] at hlen
  rw [rxAt_append _ (by omega), csumAt_append _ hL (by omega)] at hck
  have hs := findSync_of_append hsync (by omega)
  have hgood := classify_eq_good (m := m) hs (hlen ▸ hL) (hlen ▸ hm) (by omega) (hlen ▸ hck)
  rwa [← hlen] at hgood

end Sys2Proof.Codec

namespace Sys2Proof.Machine

open Sys2Proof

/-! ### The channel invariant in Forwarding -/

/-- The accepted frame of a forwarding channel that meets R40. -/
theorem ChannelInv.frame {p : Params} {ch : Channel} (h : ChannelInv p ch) (hst : ch.st = .forwarding) :
    ∃ L, Codec.classify p.maxPayload ch.buf = .good ch.fwdOff L ∧ ch.fwdLen = 9 + L := by
  obtain ⟨i, L, hv, rfl, hlen, -⟩ := h.forwarding.mp hst
  exact ⟨L, hv, hlen⟩

/-- A channel that forwards an accepted frame not yet sent whole meets R40. -/
theorem channelInv_of_good {p : Params} {ch : Channel} {L : Nat} (hb : ch.buf.length ≤ p.cap)
    (hst : ch.st = .forwarding) (hv : Codec.classify p.maxPayload ch.buf = .good ch.fwdOff L)
    (hlen : ch.fwdLen = 9 + L) (hwr : ch.wr < ch.fwdLen) : ChannelInv p ch where
  bound := hb
  not_error := by simp [hst]
  header := by simp [hst, hv]
  body := by simp [hst, hv]
  forwarding := by simp only [hst, hv, true_iff]; exact ⟨_, _, rfl, rfl, hlen, hwr.le⟩
  fwd_ranges := fun _ => hwr
  canonical := by simp [hst]

/-- A channel in its reset state meets R40. -/
theorem channelInv_reset (p : Params) : ChannelInv p Channel.reset :=
  (settled_reset p).channelInv (Nat.zero_le _)

/-- RESOLVE within the capacity establishes R40 whatever the registers held. -/
theorem channelInv_resolveChannel {p : Params} {ch : Channel} (hb : ch.buf.length ≤ p.cap) :
    ChannelInv p (resolveChannel p ch).1 := by
  obtain ⟨n, ch', hbuf, hset⟩ := resolveChannel_settled p ch
  refine hset.channelInv ?_
  rw [hset.buf_eq, hbuf, List.length_drop]
  omega

/-- More bytes of the frame were sent, but not the last one (R146). -/
theorem ChannelInv.advance {p : Params} {ch : Channel} {w : Nat} (h : ChannelInv p ch) (hst : ch.st = .forwarding)
    (hw : w < ch.fwdLen) : ChannelInv p { ch with wr := w } := by
  obtain ⟨L, hv, hlen⟩ := h.frame hst
  exact channelInv_of_good h.bound hst hv hlen hw

/-- The H2S channel after USB_DISCONNECT (R149): the carryover it drops stands behind the accepted frame. -/
theorem ChannelInv.drain {p : Params} {ch : Channel} (h : ChannelInv p ch) : ChannelInv p ch.drain := by
  unfold Channel.drain
  split
  case isTrue hst =>
    obtain ⟨L, hv, hlen⟩ := h.frame hst
    refine channelInv_of_good ?_ hst ?_ hlen (h.fwd_ranges hst)
    · exact (List.length_take_le' _ _).trans h.bound
    · rw [hlen, ← Nat.add_assoc]
      exact Codec.classify_take_of_good hv
  case isFalse hst =>
    obtain ⟨hoff, hlen, hwr⟩ := h.canonical hst
    rw [hoff, hlen, hwr]
    exact channelInv_reset p

/-- The S2H channel after USB_DISCONNECT (R149): the frame starts again. -/
theorem ChannelInv.restart {p : Params} {ch : Channel} (h : ChannelInv p ch) : ChannelInv p ch.restart := by
  unfold Channel.restart
  split
  case isTrue hst => exact h.advance hst (Nat.zero_lt_of_lt (h.fwd_ranges hst))
  case isFalse => exact h

/-! ### The invariant of both channels, channel by channel -/

theorem relayInv_iff (s : State) : RelayInv s ↔ ∀ c, ChannelInv s.params (s.ch c) :=
  ⟨fun h c => match c with | .h2s => h.h2s | .s2h => h.s2h, fun h => ⟨h .h2s, h .s2h⟩⟩

/-- A step that leaves the parameters and both channels alone. -/
theorem RelayInv.of_same {s t : State} (h : RelayInv s) (hp : t.params = s.params) (h1 : t.h2s = s.h2s)
    (h2 : t.s2h = s.s2h) : RelayInv t :=
  ⟨by rw [hp, h1]; exact h.h2s, by rw [hp, h2]; exact h.s2h⟩

/-- A step of channel `c` that leaves the parameters and the other channel alone. -/
theorem RelayInv.of_channel {s t : State} {c : Chan} (h : RelayInv s) (hp : t.params = s.params)
    (hc : ChannelInv s.params (t.ch c)) (hne : ∀ c', c' ≠ c → t.ch c' = s.ch c') : RelayInv t := by
  refine (relayInv_iff t).mpr fun c' => ?_
  rw [hp]
  by_cases hcc : c' = c
  · exact hcc ▸ hc
  · rw [hne c' hcc]
    exact (relayInv_iff s).mp h c'

theorem RelayInv.resolve {s : State} (h : RelayInv s) (c : Chan) : RelayInv (s.resolve c) := by
  refine h.of_channel (c := c) (by simp) ?_ (s.ch_resolve_of_ne c)
  rw [State.ch_resolve]
  exact channelInv_resolveChannel ((relayInv_iff s).mp h c).bound

/-- A read keeps R40 of its channel: the chunk fits. -/
theorem channelInv_ch_recv {s : State} {c : Chan} (h : ChannelInv s.params (s.ch c)) (k : Nat) :
    ChannelInv s.params ((s.recv c k).ch c) := by
  cases hk : recvEnabled s c k with
  | false => rwa [State.recv_disabled hk]
  | true =>
    rw [State.ch_recv hk]
    refine channelInv_resolveChannel ?_
    have hroom := (recvEnabled_bounds hk).2
    have hcap := h.bound
    rw [State.freeSpace] at hroom
    rw [List.length_append, List.length_take]
    omega

theorem RelayInv.recv {s : State} (h : RelayInv s) (c : Chan) (k : Nat) : RelayInv (s.recv c k) :=
  h.of_channel (c := c) (by simp) (channelInv_ch_recv ((relayInv_iff s).mp h c) k) (s.ch_recv_of_ne c k)

/-- COMPLETE establishes R40 of its channel, whatever its registers held. -/
theorem channelInv_ch_complete {s : State} {c : Chan} (hb : (s.ch c).buf.length ≤ s.params.cap) :
    ChannelInv s.params ((s.complete c).ch c) := by
  rw [State.complete_eq, State.ch_resolve, State.ch_setCh, State.params_setCh]
  exact channelInv_resolveChannel ((List.drop_sublist _ _).length_le.trans hb)

theorem RelayInv.complete {s : State} (h : RelayInv s) (c : Chan) : RelayInv (s.complete c) :=
  h.of_channel (c := c) (by simp) (channelInv_ch_complete ((relayInv_iff s).mp h c).bound) (s.ch_complete_of_ne c)

/-- A send keeps R40 of its channel: inside the frame `wr` stays below `fwd_len`, and the last byte runs COMPLETE. -/
theorem channelInv_ch_send {s : State} {c : Chan} (h : ChannelInv s.params (s.ch c)) (k : Nat) :
    ChannelInv s.params ((s.send c k).ch c) := by
  cases hk : sendEnabled s c k with
  | false => rwa [State.send_disabled hk]
  | true =>
    obtain ⟨hst, -, hle, -⟩ := sendEnabled_iff.mp hk
    have hwr := h.fwd_ranges hst
    by_cases hlast : (s.ch c).wr + k = (s.ch c).fwdLen
    · rw [State.send_last hk hlast]
      have hc : ChannelInv (s.sent c k).params (((s.sent c k).complete c).ch c) :=
        channelInv_ch_complete (by simpa using h.bound)
      simpa using hc
    · rw [State.send_inside hk hlast, State.sent, State.ch_setCh]
      exact h.advance hst (by omega)

theorem RelayInv.send {s : State} (h : RelayInv s) (c : Chan) (k : Nat) : RelayInv (s.send c k) :=
  h.of_channel (c := c) (by simp) (channelInv_ch_send ((relayInv_iff s).mp h c) k) (s.ch_send_of_ne c k)

theorem RelayInv.inject {s : State} (h : RelayInv s) (c : Chan) (C : List Byte) : RelayInv (s.inject c C) := by
  unfold State.inject
  split
  · exact h.of_same (by simp) (by simp) (by simp)
  · exact h

theorem RelayInv.disconnect {s : State} (h : RelayInv s) : RelayInv s.disconnect := by
  unfold State.disconnect
  split
  · exact ⟨h.h2s.drain, h.s2h.restart⟩
  · exact h

/-- Every effect of an operation keeps R40 of both channels. -/
theorem RelayInv.effect {i : Instr} {s t : State} (h : RelayInv s) (he : Effect i s t) : RelayInv t := by
  cases he with
  | answer r => exact h.of_same rfl rfl rfl
  | refuse m => exact h.of_same rfl rfl rfl
  | inject c C => exact h.inject c C
  | recv c k => exact h.recv c k
  | timeout c _ =>
    unfold State.timeout
    split
    · exact h.of_same rfl rfl rfl
    · exact h
  | send c k => exact h.send c k
  | connect =>
    unfold State.connect
    split
    · exact h
    · exact h.of_same rfl rfl rfl
  | disconnect _ => exact h.disconnect
  | resolve c _ => exact h.resolve c
  | complete c _ => exact h.complete c
  | sample v t =>
    unfold State.sample
    split <;> exact h.of_same rfl rfl rfl
  | commit t => exact h.of_same rfl rfl rfl
  | publish e => exact h.of_same rfl rfl rfl
  | take => exact h.of_same rfl rfl rfl
  | transition d _ => exact h.of_same rfl rfl rfl
  | reset =>
    have hp : s.toReset.params = s.params := by
      unfold State.toReset
      split <;> rfl
    exact ⟨hp ▸ channelInv_reset _, hp ▸ channelInv_reset _⟩
  | deliver c F =>
    exact State.deliver_keeps (fun _ C h => h.inject c C) (fun _ k h => h.recv c k) (fun _ k h => h.send c k) F h

end Sys2Proof.Machine

namespace Sys2Proof.Proofs

open Sys2Proof Sys2Proof.Machine

/-- Settles O33: a step waits, or runs one operation on the state without its line. -/
theorem stepKeepsTheRelayInvariant : Obligations.StepKeepsTheRelayInvariant := by
  intro s t h hstep
  rcases step_cases hstep with ⟨-, rfl⟩ | ⟨l, rest, i, -, -, hexec⟩
  · exact h
  · exact RelayInv.effect (s := { s with schedule := rest }) (h.of_same rfl rfl rfl) (effect_of_exec hexec)

end Sys2Proof.Proofs
end

section
/-! PROOFS. FIND_SYNC and CLASSIFY in the rules' own words, an accepted frame as the encoding of its fields, and O2,
O3, O12 and O30 (spec/40_codec.md R111 and R112, spec/42_bridge.md section 3). -/

namespace Sys2Proof.Codec

open Sys2Proof

/-! ### FIND_SYNC (R111) -/

theorem findSync_of_markerAt_zero {B : List Byte} (h : Machine.MarkerAt B 0) : findSync B = some 0 := by
  match B, h with
  | [], h => simp [Machine.MarkerAt] at h
  | [_], h => simp [Machine.MarkerAt] at h
  | a :: b :: rest, h =>
    have hm : a = syncHi ∧ b = syncLo := by simpa [Machine.MarkerAt] using h
    rw [findSync, if_pos hm]

/-- A first byte moves every later marker by one. -/
theorem markerAt_cons_succ (a : Byte) (B : List Byte) (i : Nat) :
    Machine.MarkerAt (a :: B) (i + 1) ↔ Machine.MarkerAt B i := by
  simp [Machine.MarkerAt]

/-- What `FIND_SYNC` finds is the first marker. -/
theorem firstMarker_of_findSync {B : List Byte} {i : Nat} (h : findSync B = some i) : Machine.FirstMarker B i := by
  induction B generalizing i with
  | nil => simp [findSync] at h
  | cons a B ih =>
    by_cases hm : Machine.MarkerAt (a :: B) 0
    · obtain rfl : 0 = i := by simpa [findSync_of_markerAt_zero hm] using h
      exact ⟨hm, fun j hj => absurd hj (Nat.not_lt_zero j)⟩
    · rw [findSync_cons hm, Option.map_eq_some_iff] at h
      obtain ⟨j, hj, rfl⟩ := h
      obtain ⟨hat, hbefore⟩ := ih hj
      refine ⟨(markerAt_cons_succ a B j).mpr hat, fun k hk => ?_⟩
      cases k with
      | zero => exact hm
      | succ k => exact mt (markerAt_cons_succ a B k).mp (hbefore k (Nat.lt_of_succ_lt_succ hk))

/-- Where there is a marker `FIND_SYNC` finds one. -/
theorem findSync_ne_none_of_markerAt {B : List Byte} {i : Nat} (h : Machine.MarkerAt B i) : findSync B ≠ none := by
  induction B generalizing i with
  | nil => simp [Machine.MarkerAt] at h
  | cons a B ih =>
    by_cases hm : Machine.MarkerAt (a :: B) 0
    · simp [findSync_of_markerAt_zero hm]
    · cases i with
      | zero => exact absurd h hm
      | succ i =>
        rw [findSync_cons hm, Ne, Option.map_eq_none_iff]
        exact ih ((markerAt_cons_succ a B i).mp h)

theorem findSync_eq_none_iff {B : List Byte} : findSync B = none ↔ ∀ i, ¬ Machine.MarkerAt B i := by
  refine ⟨fun h i hi => findSync_ne_none_of_markerAt hi h, fun h => ?_⟩
  cases hs : findSync B with
  | none => rfl
  | some i => exact absurd (firstMarker_of_findSync hs).1 (h i)

theorem findSync_eq_some_iff {B : List Byte} {i : Nat} : findSync B = some i ↔ Machine.FirstMarker B i := by
  refine ⟨firstMarker_of_findSync, fun ⟨hat, hbefore⟩ => ?_⟩
  cases hs : findSync B with
  | none => exact absurd hs (findSync_ne_none_of_markerAt hat)
  | some j =>
    obtain ⟨hat', hbefore'⟩ := firstMarker_of_findSync hs
    rcases lt_trichotomy j i with hlt | rfl | hgt
    · exact absurd hat' (hbefore j hlt)
    · rfl
    · exact absurd hat (hbefore' i hgt)

/-! ### CLASSIFY where bytes are missing (R112) -/

theorem classify_eq_needHdr {m : Nat} {B : List Byte} (hs : findSync B = none) : classify m B = .needHdr := by
  rw [classify, hs]

/-- The header is not all there. -/
theorem classify_eq_needBody_of_header {m i : Nat} {B : List Byte} (hs : findSync B = some i)
    (hb : B.length - i < 9) : classify m B = .needBody i := by
  rw [classify, hs]
  exact if_pos hb

/-- The header is there, its `LEN` is legal, and the rest of the frame is not all there. -/
theorem classify_eq_needBody_of_body {m i : Nat} {B : List Byte} (hs : findSync B = some i)
    (hb : 9 ≤ B.length - i) (hL : 2 ≤ lenAt B i) (hm : lenAt B i - 2 ≤ m) (hshort : B.length - i < 9 + lenAt B i) :
    classify m B = .needBody i := by
  rw [classify, hs]
  simp only [classifyAt]
  rw [if_neg (by omega), if_neg (by omega), if_neg (by omega), if_pos hshort]

/-- The computed checksum as the byte sum of R110 over the candidate's bytes. -/
theorem csumAt_eq_sum (B : List Byte) (i : Nat) {L : Nat} (hL : L < 65536) :
    csumAt B i L
      = ((byteAt B (i + 6)).toNat + L / 256 + L % 256 + sumBytes ((B.drop (i + 9)).take (L - 2))) % 65536 := by
  have hlen : (BitVec.ofNat 16 L).toNat = L := Nat.mod_eq_of_lt hL
  rw [csumAt, csum_toNat, hlen, slice, show i + 7 + L - (i + 9) = L - 2 by omega]

/-! ### What the checksum does not see -/

/-- Payloads of one byte sum modulo 65536 have one checksum (R110). -/
theorem csum_congr_sum {P P' : List Byte} (t : Byte) (L : Half) (h : sumBytes P' % 65536 = sumBytes P % 65536) :
    csum t L P' = csum t L P := by
  apply BitVec.eq_of_toNat_eq
  rw [csum_toNat, csum_toNat]
  omega

/-- An encoded frame with its address and its payload replaced, the new payload of the same length and byte sum, is
the encoding of the new address and payload. -/
theorem encodeFrame_replaced (a a' : Addr) (t : Byte) {P P' : List Byte} (hlen : P'.length = P.length)
    (hsum : sumBytes P' % 65536 = sumBytes P % 65536) :
    [syncHi, syncLo] ++ addrBytes a' ++ ((encodeFrame a t P).drop 6).take 3 ++ P'
        ++ (encodeFrame a t P).drop (9 + P.length)
      = encodeFrame a' t P' := by
  have hfield : lenField P' = lenField P := by rw [lenField, lenField, hlen]
  have htail : (encodeFrame a t P).drop (9 + P.length)
      = [hi8 (csum t (lenField P) P), lo8 (csum t (lenField P) P)] := by
    rw [← List.drop_drop, encodeFrame_drop_header, List.drop_left]
  have hmid : ((encodeFrame a t P).drop 6).take 3 = [t, hi8 (lenField P), lo8 (lenField P)] := rfl
  rw [htail, hmid, encodeFrame, hfield, csum_congr_sum t _ hsum]

/-! ### Bytes back from the values they make up (R11, R63) -/

theorem hi8_ofNat_be16 (a b : Byte) : hi8 (BitVec.ofNat 16 (be16 a b)) = a := by
  have ha := a.isLt
  have hb := b.isLt
  apply BitVec.eq_of_toNat_eq
  rw [hi8_toNat, BitVec.toNat_ofNat, be16]
  omega

theorem lo8_ofNat_be16 (a b : Byte) : lo8 (BitVec.ofNat 16 (be16 a b)) = b := by
  have ha := a.isLt
  have hb := b.isLt
  apply BitVec.eq_of_toNat_eq
  rw [lo8_toNat, BitVec.toNat_ofNat, be16]
  omega

theorem ofNat_be16_hi8_lo8 (v : Half) : BitVec.ofNat 16 (be16 (hi8 v) (lo8 v)) = v := by
  rw [be16_hi8_lo8, BitVec.ofNat_toNat, BitVec.setWidth_eq]

theorem addrBytes_ofNat_be32 (a b c d : Byte) : addrBytes (BitVec.ofNat 32 (be32 a b c d)) = [a, b, c, d] := by
  have ha := a.isLt
  have hb := b.isLt
  have hc := c.isLt
  have hd := d.isLt
  simp only [addrBytes, List.cons.injEq, and_true]
  refine ⟨?_, ?_, ?_, ?_⟩ <;> apply BitVec.eq_of_toNat_eq <;>
    simp only [BitVec.extractLsb'_toNat, BitVec.toNat_ofNat, Nat.shiftRight_eq_div_pow, be32] <;> omega

/-! ### A range of a byte sequence, byte by byte -/

theorem slice_cons {B : List Byte} {i j : Nat} (hi : i < B.length) (hij : i < j) :
    slice B i j = byteAt B i :: slice B (i + 1) j := by
  rw [slice, slice, List.drop_eq_getElem_cons hi, show j - i = j - (i + 1) + 1 by omega, List.take_succ_cons, byteAt,
    List.getD_eq_getElem _ _ hi]

theorem slice_append_slice (B : List Byte) {i j k : Nat} (hij : i ≤ j) (hjk : j ≤ k) :
    slice B i j ++ slice B j k = slice B i k := by
  have hj : B.drop j = (B.drop i).drop (j - i) := by rw [List.drop_drop, Nat.add_sub_cancel' hij]
  rw [slice, slice, slice, hj, ← List.take_add, show j - i + (k - j) = k - i by omega]

theorem slice_self (B : List Byte) (i : Nat) : slice B i i = [] := by simp [slice]

/-- The bytes of a candidate at `i` with `LEN = L` by the fields of R80. -/
theorem slice_candidate {B : List Byte} {i L : Nat} (hL : 2 ≤ L) (hb : i + 9 + L ≤ B.length) :
    slice B i (i + 9 + L) = [byteAt B i, byteAt B (i + 1)]
      ++ [byteAt B (i + 2), byteAt B (i + 3), byteAt B (i + 4), byteAt B (i + 5)]
      ++ [byteAt B (i + 6), byteAt B (i + 7), byteAt B (i + 8)] ++ slice B (i + 9) (i + 7 + L)
      ++ [byteAt B (i + 7 + L), byteAt B (i + 8 + L)] := by
  have hck : slice B (i + 7 + L) (i + 9 + L) = [byteAt B (i + 7 + L), byteAt B (i + 8 + L)] := by
    rw [slice_cons (by omega) (by omega), slice_cons (by omega) (by omega),
      show i + 7 + L + 1 = i + 8 + L by omega, show i + 8 + L + 1 = i + 9 + L by omega, slice_self]
  have hbody : slice B (i + 9) (i + 9 + L)
      = slice B (i + 9) (i + 7 + L) ++ [byteAt B (i + 7 + L), byteAt B (i + 8 + L)] := by
    rw [← hck, slice_append_slice B (by omega) (by omega)]
  iterate 9 rw [slice_cons (by omega) (by omega)]
  rw [hbody]
  rfl

/-- The bytes of an accepted frame are the encoding of its fields (spec/42_bridge.md section 3, D8). -/
theorem encodeFrame_frameAt {m i L : Nat} {B : List Byte} (h : classify m B = .good i L) :
    encodeFrame (frameAt B i L).addr (frameAt B i L).ptype (frameAt B i L).payload = (B.drop i).take (9 + L) := by
  obtain ⟨hb, hL, -⟩ := classify_good_bound h
  obtain ⟨⟨hhi, hlo⟩, -⟩ := firstMarker_of_findSync (findSync_of_good h)
  have h0 : byteAt B i = syncHi := by simp [byteAt, List.getD_eq_getElem?_getD, hhi]
  have h1 : byteAt B (i + 1) = syncLo := by simp [byteAt, List.getD_eq_getElem?_getD, hlo]
  have hfield : lenField (frameAt B i L).payload = BitVec.ofNat 16 L := by
    rw [lenField, frameAt_payload_length h]
  have hlen : BitVec.ofNat 16 L = BitVec.ofNat 16 (be16 (byteAt B (i + 7)) (byteAt B (i + 8))) := by
    rw [(classify_good_fields h).1]
    rfl
  have hcsum : csum (frameAt B i L).ptype (BitVec.ofNat 16 L) (frameAt B i L).payload
      = BitVec.ofNat 16 (be16 (byteAt B (i + 7 + L)) (byteAt B (i + 8 + L))) := (frameAt_checksum h).symm
  have hslice : (B.drop i).take (9 + L) = slice B i (i + 9 + L) := by
    rw [slice, show i + 9 + L - i = 9 + L by omega]
  rw [hslice, slice_candidate hL hb, encodeFrame, hfield, hcsum, hlen, hi8_ofNat_be16, lo8_ofNat_be16,
    hi8_ofNat_be16, lo8_ofNat_be16, h0, h1]
  simp only [frameAt, addrBytes_ofNat_be32]

end Sys2Proof.Codec

namespace Sys2Proof.Proofs

open Sys2Proof Sys2Proof.Machine

/-- Settles O2: `FIND_SYNC` finds the first marker, and none only where there is none. -/
theorem findSyncAnswersTheFirstMarker : Obligations.FindSyncAnswersTheFirstMarker := fun B s =>
  ⟨Codec.findSync B, exec_findSync B s, fun _ => Codec.findSync_eq_some_iff, Codec.findSync_eq_none_iff⟩

/-- Settles O3: one equation of `classify` per clause. -/
theorem classifyChecksInOrder : Obligations.ClassifyChecksInOrder := by
  intro B s
  refine ⟨_, exec_classify B s, fun h => Codec.classify_eq_needHdr (Codec.findSync_eq_none_iff.mpr h), ?_⟩
  intro i hi
  have hs := Codec.findSync_eq_some_iff.mpr hi
  have hb := Codec.findSync_bound hs
  have hsum := Codec.csumAt_eq_sum B i (Codec.be16_lt (Codec.byteAt B (i + 7)) (Codec.byteAt B (i + 8)))
  refine ⟨fun hroom => Codec.classify_eq_needBody_of_header hs hroom,
    fun hroom hL => Codec.classify_eq_malformed hs (by omega) hL,
    fun hroom hL hm => Codec.classify_eq_tooLarge hs (by omega) hL hm,
    fun hroom hL hm hshort => Codec.classify_eq_needBody_of_body hs hroom hL hm hshort,
    fun hL hm hroom hne => Codec.classify_eq_csumBad hs hL hm ?_ fun hc => hne (hc.trans hsum),
    fun hL hm hroom heq => Codec.classify_eq_good hs hL hm ?_ (heq.trans hsum.symm)⟩
  all_goals
    change 9 + Codec.lenAt B i ≤ B.length - i at hroom
    omega

/-- Settles O12: the changed bytes are themselves an encoded frame. -/
theorem checksumMissesAddressAndCancellingChanges : Obligations.ChecksumMissesAddressAndCancellingChanges := by
  intro a a' t P P' s hP hlen hsum
  refine (exec_classify_iff _ _ s).mpr ?_
  have hP' : P'.length ≤ s.params.maxPayload := hlen ▸ hP
  rw [Codec.encodeFrame_replaced a a' t hlen hsum, ← hlen]
  exact Codec.classify_encodeFrame a' t hP' (hP'.trans s.params.maxPayload_le)

/-- Settles O30: the accepted bytes field by field. -/
theorem passthroughIsReencoding : Obligations.PassthroughIsReencoding := fun _ _ _ _ h =>
  ⟨_, Codec.decode_of_good h, (Codec.encodeFrame_frameAt h).symm⟩

end Sys2Proof.Proofs
end

section
/-! PROOFS. Each operand form read and written, frame lines, and O54 and O55 (spec/30_encoding.md R92 and R94;
notes/assumptions/2.md). -/

namespace Sys2Proof.Operand

open Sys2Proof

/-! ### Every operand has one spelling -/

theorem chanOfByte_eq_ok {b : Byte} {c : Chan} : chanOfByte b = .ok c ↔ b = chanByte c := by
  refine ⟨fun h => ?_, fun h => h ▸ chanOfByte_chanByte c⟩
  unfold chanOfByte at h
  split at h
  · cases h; assumption
  split at h
  · cases h; assumption
  · cases h

theorem levelOfByte_eq_ok {b : Byte} {v : Bool} : levelOfByte b = .ok v ↔ b = levelByte v := by
  refine ⟨fun h => ?_, fun h => h ▸ levelOfByte_levelByte v⟩
  unfold levelOfByte at h
  split at h
  · cases h; assumption
  split at h
  · cases h; assumption
  · cases h

theorem eventOfByte_eq_ok {b : Byte} {e : EventState} : eventOfByte b = .ok e ↔ b = eventByte e := by
  refine ⟨fun h => ?_, fun h => h ▸ eventOfByte_eventByte e⟩
  unfold eventOfByte at h
  split at h
  · cases h; assumption
  split at h
  · cases h; assumption
  split at h
  · cases h; assumption
  · cases h

/-- The digits of the natural that bytes without a leading zero stand for are those bytes. -/
theorem digits_bytesNat {bs : List Byte} (h : bs.head? ≠ some 0) {fuel : Nat} (hf : bytesNat bs ≤ fuel) :
    digits fuel (bytesNat bs) = bs.reverse := by
  induction bs using List.reverseRecOn generalizing fuel with
  | nil => cases fuel <;> rfl
  | append_singleton bs b ih =>
    have hb := b.isLt
    have hhead : bs.head? ≠ some 0 := by cases bs <;> simp_all
    have hn := bytesNat_append_singleton bs b
    have hpos : bytesNat (bs ++ [b]) ≠ 0 := by
      intro h0
      have hbs : bytesNat bs = 0 := by omega
      have hnil := ih hhead (fuel := 0) hbs.le
      rw [digits, eq_comm, List.reverse_eq_nil_iff] at hnil
      have hb0 : b = 0 := BitVec.eq_of_toNat_eq (show b.toNat = 0 by omega)
      exact h (by rw [hnil, hb0]; rfl)
    cases fuel with
    | zero => omega
    | succ fuel =>
      have hlow : BitVec.ofNat 8 (bytesNat (bs ++ [b])) = b := by
        apply BitVec.eq_of_toNat_eq
        rw [BitVec.toNat_ofNat]
        omega
      rw [digits, if_neg hpos, hlow, show bytesNat (bs ++ [b]) / 256 = bytesNat bs by omega,
        ih hhead (by omega), List.reverse_append]
      rfl

theorem natOfBytes_eq_ok {bs : List Byte} {n : Nat} : natOfBytes bs = .ok n ↔ bs = natBytes n := by
  refine ⟨fun h => ?_, fun h => h ▸ natOfBytes_natBytes n⟩
  unfold natOfBytes at h
  split at h
  · cases h
  case isFalse hhead =>
    obtain rfl : bytesNat bs = n := by simpa using h
    rw [natBytes, digits_bytesNat hhead le_rfl, List.reverse_reverse]

end Sys2Proof.Operand

namespace Sys2Proof

open Codec Operand

/-! ### The operand forms of R94 -/

theorem map_eq_ok {α β : Type} {x : Except DecodeError α} {f : α → β} {b : β} :
    x.map f = .ok b ↔ ∃ a, x = .ok a ∧ f a = b := by
  cases x <;> simp [Except.map]

theorem bind_eq_ok {α β : Type} {x : Except DecodeError α} {f : α → Except DecodeError β} {b : β} :
    x.bind f = .ok b ↔ ∃ a, x = .ok a ∧ f a = .ok b := by
  cases x <;> simp [Except.bind]

theorem noOperands_eq_ok {i j : Instr} {ops : List Byte} : noOperands i ops = .ok j ↔ ops = [] ∧ i = j := by
  cases ops <;> simp [noOperands]

theorem chanOperand_eq_ok {f : Chan → Instr} {ops : List Byte} {j : Instr} :
    chanOperand f ops = .ok j ↔ ∃ c, ops = [chanByte c] ∧ f c = j := by
  match ops with
  | [] => simp [chanOperand]
  | [b] => simp [chanOperand, map_eq_ok, chanOfByte_eq_ok]
  | _ :: _ :: _ => simp [chanOperand]

theorem chanNatOperands_eq_ok {f : Chan → Nat → Instr} {ops : List Byte} {j : Instr} :
    chanNatOperands f ops = .ok j ↔ ∃ c k, ops = chanByte c :: natBytes k ∧ f c k = j := by
  cases ops with
  | nil => simp [chanNatOperands]
  | cons b ks => simp [chanNatOperands, bind_eq_ok, map_eq_ok, chanOfByte_eq_ok, natOfBytes_eq_ok, and_assoc]

theorem bytesOperand_eq_ok {f : List Byte → Instr} {ops : List Byte} {j : Instr} :
    bytesOperand f ops = .ok j ↔ ops ≠ [] ∧ f ops = j := by
  cases ops <;> simp [bytesOperand]

theorem csumOperands_eq_ok {ops : List Byte} {j : Instr} :
    csumOperands ops = .ok j ↔ ∃ t L P, ops = t :: hi8 L :: lo8 L :: P ∧ .csum t L P = j := by
  constructor
  · intro h
    unfold csumOperands at h
    split at h
    case h_1 t lh ll P =>
      exact ⟨t, _, P, by rw [hi8_ofNat_be16, lo8_ofNat_be16], by simpa using h⟩
    case h_2 => cases h
  · rintro ⟨t, L, P, rfl, rfl⟩
    rw [csumOperands, ofNat_be16_hi8_lo8]

theorem encodeOperands_eq_ok {ops : List Byte} {j : Instr} :
    encodeOperands ops = .ok j ↔ ∃ a t P, ops = addrBytes a ++ t :: P ∧ .encode a t P = j := by
  constructor
  · intro h
    unfold encodeOperands at h
    split at h
    case h_1 a3 a2 a1 a0 t P => exact ⟨_, t, P, by rw [addrBytes_ofNat_be32]; rfl, by simpa using h⟩
    case h_2 => cases h
  · rintro ⟨a, t, P, rfl, rfl⟩
    simp only [addrBytes, List.cons_append, List.nil_append, encodeOperands]
    rw [be32_addrBytes, BitVec.ofNat_toNat, BitVec.setWidth_eq]

theorem sampleOperands_eq_ok {ops : List Byte} {j : Instr} :
    sampleOperands ops = .ok j ↔ ∃ v t, ops = levelByte v :: natBytes t ∧ .sample v t = j := by
  cases ops with
  | nil => simp [sampleOperands]
  | cons b ts => simp [sampleOperands, bind_eq_ok, map_eq_ok, levelOfByte_eq_ok, natOfBytes_eq_ok, and_assoc]

theorem eventOperand_eq_ok {ops : List Byte} {j : Instr} :
    eventOperand ops = .ok j ↔ ∃ e, ops = [eventByte e] ∧ .publish e = j := by
  match ops with
  | [] => simp [eventOperand]
  | [b] => simp [eventOperand, map_eq_ok, eventOfByte_eq_ok]
  | _ :: _ :: _ => simp [eventOperand]

theorem levelOperand_eq_ok {ops : List Byte} {j : Instr} :
    levelOperand ops = .ok j ↔ ∃ d, ops = [levelByte d] ∧ .transition d = j := by
  match ops with
  | [] => simp [levelOperand]
  | [b] => simp [levelOperand, map_eq_ok, levelOfByte_eq_ok]
  | _ :: _ :: _ => simp [levelOperand]

/-! ### Lines that open with an action code (R92) -/

/-- A line that opens with an action code is the line of a well-formed operation. -/
theorem encode_of_decodeAction {n : Nat} {ops : List Byte} {i : Instr} (h : decodeAction n ops = .ok i) :
    i.wf = true ∧ encode i = BitVec.ofNat 8 n :: ops := by
  unfold decodeAction at h
  split at h
  case h_1 => obtain ⟨t, L, P, rfl, rfl⟩ := csumOperands_eq_ok.mp h; exact ⟨rfl, rfl⟩
  case h_2 => cases h; exact ⟨rfl, rfl⟩
  case h_3 => cases h; exact ⟨rfl, rfl⟩
  case h_4 => cases h; exact ⟨rfl, rfl⟩
  case h_5 => obtain ⟨a, t, P, rfl, rfl⟩ := encodeOperands_eq_ok.mp h; exact ⟨rfl, rfl⟩
  case h_6 => obtain ⟨hne, rfl⟩ := bytesOperand_eq_ok.mp h; exact ⟨by simp [Instr.wf, hne], rfl⟩
  case h_7 => obtain ⟨hne, rfl⟩ := bytesOperand_eq_ok.mp h; exact ⟨by simp [Instr.wf, hne], rfl⟩
  case h_8 => obtain ⟨c, k, rfl, rfl⟩ := chanNatOperands_eq_ok.mp h; exact ⟨rfl, rfl⟩
  case h_9 => obtain ⟨c, rfl, rfl⟩ := chanOperand_eq_ok.mp h; exact ⟨rfl, rfl⟩
  case h_10 => obtain ⟨c, k, rfl, rfl⟩ := chanNatOperands_eq_ok.mp h; exact ⟨rfl, rfl⟩
  case h_11 => obtain ⟨rfl, rfl⟩ := noOperands_eq_ok.mp h; exact ⟨rfl, rfl⟩
  case h_12 => obtain ⟨rfl, rfl⟩ := noOperands_eq_ok.mp h; exact ⟨rfl, rfl⟩
  case h_13 => obtain ⟨c, rfl, rfl⟩ := chanOperand_eq_ok.mp h; exact ⟨rfl, rfl⟩
  case h_14 => obtain ⟨c, rfl, rfl⟩ := chanOperand_eq_ok.mp h; exact ⟨rfl, rfl⟩
  case h_15 => obtain ⟨v, t, rfl, rfl⟩ := sampleOperands_eq_ok.mp h; exact ⟨rfl, rfl⟩
  case h_16 =>
    obtain ⟨t, ht, rfl⟩ := map_eq_ok.mp h
    obtain rfl := natOfBytes_eq_ok.mp ht
    exact ⟨rfl, rfl⟩
  case h_17 => obtain ⟨e, rfl, rfl⟩ := eventOperand_eq_ok.mp h; exact ⟨rfl, rfl⟩
  case h_18 => obtain ⟨rfl, rfl⟩ := noOperands_eq_ok.mp h; exact ⟨rfl, rfl⟩
  case h_19 => obtain ⟨rfl, rfl⟩ := noOperands_eq_ok.mp h; exact ⟨rfl, rfl⟩
  case h_20 => obtain ⟨d, rfl, rfl⟩ := levelOperand_eq_ok.mp h; exact ⟨rfl, rfl⟩
  case h_21 =>
    have hlow : 0x14 ≤ n := by
      simp only [imp_false] at *
      omega
    split at h
    case isTrue hn =>
      obtain ⟨rfl, rfl⟩ := noOperands_eq_ok.mp h
      refine ⟨rfl, congrArg (· :: []) ?_⟩
      interval_cases n <;> rfl
    split at h
    case isTrue hn =>
      obtain ⟨rfl, rfl⟩ := noOperands_eq_ok.mp h
      refine ⟨rfl, congrArg (· :: []) ?_⟩
      interval_cases n <;> rfl
    case isFalse => cases h

/-! ### Frame lines (R80, R89) -/

theorem payloadFits_iff {P : List Byte} : payloadFits P = true ↔ P.length ≤ maxLenPayload := decide_eq_true_iff

/-- The line of the row that R89's map gives a type. -/
theorem encode_frameInstr (c : Chan) (t : Byte) (a : Addr) (P : List Byte) :
    encode (frameInstr c t a P) = encodeFrameLine c t a P := by
  unfold frameInstr
  split
  case isTrue ht => rw [ht]; rfl
  split
  case isTrue ht => rw [ht]; rfl
  split
  case isTrue ht => rw [ht]; rfl
  split
  case isTrue ht => rw [ht]; rfl
  case isFalse => rfl

theorem frameInstr_wf (c : Chan) (t : Byte) (a : Addr) {P : List Byte} (h : payloadFits P = true) :
    (frameInstr c t a P).wf = true := by
  unfold frameInstr
  split
  · exact h
  split
  · exact h
  split
  · exact h
  split
  · exact h
  · simp_all [Instr.wf, namedType]

/-- A type without a name has the row `TYPE_OTHER` (R89). -/
theorem frameInstr_of_not_named {t : Byte} (c : Chan) (a : Addr) (P : List Byte) (h : namedType t = false) :
    frameInstr c t a P = .typeOther c t a P := by
  simp only [namedType, Bool.or_eq_false_iff, beq_eq_false_iff_ne] at h
  obtain ⟨⟨⟨h1, h2⟩, h3⟩, h4⟩ := h
  rw [frameInstr, if_neg h1, if_neg h2, if_neg h3, if_neg h4]

/-- What DECODE accepts is a `GOOD` candidate (R113). -/
theorem good_of_decode_ok {m start consumed : Nat} {B : List Byte} {f : Frame}
    (h : Codec.decode m B = .ok f start consumed) :
    ∃ L, classify m B = .good start L ∧ f = frameAt B start L ∧ consumed = start + 9 + L := by
  unfold Codec.decode at h
  split at h
  case h_6 i L hv =>
    cases h
    exact ⟨L, hv, rfl, rfl⟩
  all_goals cases h

/-- A frame line is a whole legal frame and a channel. -/
theorem decodeFrameLine_eq_ok {F : List Byte} {b : Byte} {i : Instr} :
    decodeFrameLine F b = .ok i ↔ ∃ c t a P, F = encodeFrame a t P ∧ b = chanByte c ∧ P.length ≤ maxLenPayload
      ∧ frameInstr c t a P = i := by
  constructor
  · intro h
    unfold decodeFrameLine at h
    split at h
    case h_1 f start consumed hf =>
      split at h
      case isFalse => cases h
      case isTrue hwhole =>
        obtain ⟨rfl, rfl⟩ := hwhole
        obtain ⟨c, hc, rfl⟩ := map_eq_ok.mp h
        obtain ⟨L, hv, rfl, hlen⟩ := good_of_decode_ok hf
        have hF := encodeFrame_frameAt hv
        have hpay := frameAt_payload_length hv
        obtain ⟨-, hL, hmax⟩ := classify_good_bound hv
        rw [List.drop_zero, List.take_of_length_le (by omega)] at hF
        exact ⟨c, _, _, _, hF.symm, chanOfByte_eq_ok.mp hc, by omega, rfl⟩
    case h_2 => cases h
    case h_3 => cases h
  · rintro ⟨c, t, a, P, rfl, rfl, hP, rfl⟩
    rw [decodeFrameLine, decode_encodeFrame a t hP hP]
    simp [frameOf, Except.map]

/-- The line of a marker and at least three more bytes is read as a frame and a channel. -/
theorem decodeMarkerLine_append {F : List Byte} (b : Byte) (hF : 2 ≤ F.length) :
    decodeMarkerLine (F ++ [b]) = decodeFrameLine (syncHi :: F) b := by
  match F, hF with
  | x :: y :: F, _ =>
    cases hd : F ++ [b] with
    | nil => simp at hd
    | cons d rest =>
      rw [List.cons_append, List.cons_append, hd, decodeMarkerLine, ← hd, ← List.cons_append, ← List.cons_append,
        List.dropLast_concat, List.getLastD_concat]

/-- An encoded frame is its first byte and at least two more. -/
theorem encodeFrame_eq_cons (a : Addr) (t : Byte) (P : List Byte) :
    encodeFrame a t P = syncHi :: (encodeFrame a t P).tail := rfl

/-- The line of a legal frame decodes to its row (R89). -/
theorem decode_encodeFrameLine (c : Chan) (t : Byte) (a : Addr) {P : List Byte} (h : payloadFits P = true) :
    decode (encodeFrameLine c t a P) = .ok (frameInstr c t a P) := by
  have hlen : 2 ≤ (encodeFrame a t P).tail.length := by
    rw [List.length_tail, encodeFrame_length]
    omega
  rw [encodeFrameLine, encodeFrame_eq_cons, List.cons_append, decode, if_pos rfl, decodeMarkerLine_append _ hlen,
    ← encodeFrame_eq_cons]
  exact decodeFrameLine_eq_ok.mpr ⟨c, t, a, P, rfl, rfl, payloadFits_iff.mp h, rfl⟩

/-- A line that opens with `SYNC_HI` is the bare marker's or a frame's. -/
theorem encode_of_decodeMarkerLine {ops : List Byte} {i : Instr} (h : decodeMarkerLine ops = .ok i) :
    i.wf = true ∧ encode i = syncHi :: ops := by
  match ops with
  | [] => cases h
  | [_] => cases h
  | [b, d] =>
    rw [decodeMarkerLine] at h
    split at h
    case isFalse => cases h
    case isTrue hb =>
      obtain ⟨c, hc, rfl⟩ := map_eq_ok.mp h
      rw [hb, chanOfByte_eq_ok.mp hc]
      exact ⟨rfl, rfl⟩
  | x :: y :: z :: rest =>
    obtain ⟨F, b, hops⟩ : ∃ F b, x :: y :: z :: rest = F ++ [b] :=
      ⟨_, _, (List.dropLast_append_getLast (List.cons_ne_nil x _)).symm⟩
    have hlen := congrArg List.length hops
    simp only [List.length_cons, List.length_append, List.length_nil] at hlen
    rw [hops, decodeMarkerLine_append b (by omega)] at h
    obtain ⟨c, t, a, P, hF, rfl, hP, rfl⟩ := decodeFrameLine_eq_ok.mp h
    refine ⟨frameInstr_wf c t a (payloadFits_iff.mpr hP), ?_⟩
    rw [encode_frameInstr, encodeFrameLine, ← hF, hops]
    rfl

end Sys2Proof

namespace Sys2Proof.Proofs

open Sys2Proof Sys2Proof.Machine

/-- Settles O54: each operand form reads back what it writes, and a frame line is read by DECODE (O7). -/
theorem decodeOfEncodedLine : Obligations.DecodeOfEncodedLine := by
  intro i hwf
  cases i with
  | csum t L P => exact csumOperands_eq_ok.mpr ⟨t, L, P, rfl, rfl⟩
  | findSync B => rfl
  | classify B => rfl
  | decode B => rfl
  | encode a t P => exact encodeOperands_eq_ok.mpr ⟨a, t, P, rfl, rfl⟩
  | injectUart C => exact bytesOperand_eq_ok.mpr ⟨by simpa [Instr.wf] using hwf, rfl⟩
  | injectUsb C => exact bytesOperand_eq_ok.mpr ⟨by simpa [Instr.wf] using hwf, rfl⟩
  | recv c k => exact chanNatOperands_eq_ok.mpr ⟨c, k, rfl, rfl⟩
  | timeout c => exact chanOperand_eq_ok.mpr ⟨c, rfl, rfl⟩
  | send c k => exact chanNatOperands_eq_ok.mpr ⟨c, k, rfl, rfl⟩
  | usbConnect => rfl
  | usbDisconnect => rfl
  | resolve c => exact chanOperand_eq_ok.mpr ⟨c, rfl, rfl⟩
  | complete c => exact chanOperand_eq_ok.mpr ⟨c, rfl, rfl⟩
  | sample v t => exact sampleOperands_eq_ok.mpr ⟨v, t, rfl, rfl⟩
  | commit t => exact map_eq_ok.mpr ⟨t, Operand.natOfBytes_natBytes t, rfl⟩
  | publish e => exact eventOperand_eq_ok.mpr ⟨e, rfl, rfl⟩
  | take => rfl
  | reset => rfl
  | transition d => exact levelOperand_eq_ok.mpr ⟨d, rfl, rfl⟩
  | reserved14to17 x => revert x; decide
  | reserved18to1F x => revert x; decide
  | sync c => cases c <;> rfl
  | cmd c a P => exact decode_encodeFrameLine c 0x01 a hwf
  | data c a P => exact decode_encodeFrameLine c 0x02 a hwf
  | ack c a P => exact decode_encodeFrameLine c 0x07 a hwf
  | eod c a P => exact decode_encodeFrameLine c 0x08 a hwf
  | typeOther c t a P =>
    obtain ⟨hnamed, hfits⟩ : namedType t = false ∧ payloadFits P = true := by simpa [Instr.wf] using hwf
    rw [← frameInstr_of_not_named c a P hnamed, encode_frameInstr]
    exact decode_encodeFrameLine c t a hfits

/-- Settles O55: by the first byte of the line, an action code or the marker's. -/
theorem encodeOfDecodedLine : Obligations.EncodeOfDecodedLine := by
  intro l i h
  cases l with
  | nil => cases h
  | cons b ops =>
    rw [decode] at h
    split at h
    case isTrue hb =>
      rw [hb]
      exact encode_of_decodeMarkerLine h
    case isFalse =>
      have henc := encode_of_decodeAction h
      rwa [BitVec.ofNat_toNat, BitVec.setWidth_eq] at henc

end Sys2Proof.Proofs
end

section
/-! PROOFS. RESOLVE branch by branch, the faults of one call, and O21 to O25 and O29 (spec/42_bridge.md R170 to R175,
spec/60_exceptions.md R251). -/

namespace Sys2Proof.Machine

open Sys2Proof

/-! ### The branches of one iteration, forward -/

/-- A fault branch is what one iteration takes (R171 to R174). -/
theorem FaultBranch.resolveOnce {p : Params} {ch : Channel} {k : DiagKind} {n : Nat} (h : FaultBranch p ch.buf k n) :
    resolveOnce p ch = .again k (ch.errorDrop n) := by
  cases h with
  | overrunHdr hv hfull => simp [Machine.resolveOnce, hv, needMore, hfull]
  | overrunBody i hv hfull => simp [Machine.resolveOnce, hv, needMore, hfull]
  | malformed i L hv => simp [Machine.resolveOnce, hv]
  | tooLarge i L hv => simp [Machine.resolveOnce, hv]
  | csumBad i L hv => simp [Machine.resolveOnce, hv]

/-- A return is what one iteration takes (R170, R175). -/
theorem Settled.resolveOnce {p : Params} {ch ch' : Channel} (h : Settled p ch ch') :
    resolveOnce p ch = .done ch' := by
  cases h with
  | header hv hroom => simp [Machine.resolveOnce, hv, needMore, hroom]
  | body i hv hroom => simp [Machine.resolveOnce, hv, needMore, hroom]
  | good i L hv => simp [Machine.resolveOnce, hv]

/-- RESOLVE where an iteration returns: nothing but the channel changes. -/
theorem State.resolve_of_settled {s : State} {c : Chan} {ch' : Channel} (h : Settled s.params (s.ch c) ch') :
    s.resolve c = s.setCh c ch' := by
  rw [State.resolve_eq, resolveChannel_done h.resolveOnce, State.raise_nil]

/-- RESOLVE where an iteration takes a fault branch: the record, the drop, and RESOLVE again (R177, D7). -/
theorem State.resolve_of_fault {s : State} {c : Chan} {k : DiagKind} {n : Nat}
    (h : FaultBranch s.params (s.ch c).buf k n) :
    s.resolve c = ((s.raise [k] (originOf c)).setCh c ((s.ch c).errorDrop n)).resolve c := by
  rw [State.resolve_eq, resolveChannel_again h.resolveOnce h, State.resolve_eq, State.ch_setCh, State.params_setCh,
    State.params_raise, State.setCh_setCh, State.raise_setCh, State.raise_raise, List.singleton_append]

theorem exec_resolve_of_fault {s : State} {c : Chan} {k : DiagKind} {n : Nat}
    (h : FaultBranch s.params (s.ch c).buf k n) :
    ∃ t, exec (.resolve c) s = .next t
      ∧ exec (.resolve c) ((s.raise [k] (originOf c)).setCh c ((s.ch c).errorDrop n)) = .next t :=
  ⟨s.resolve c, exec_resolve c s, by rw [exec_resolve, ← State.resolve_of_fault h]⟩

/-! ### The faults of one call -/

/-- The protocol faults: those RESOLVE raises (R171 to R174). -/
def DiagKind.Protocol (k : DiagKind) : Prop :=
  k = .malformedLength ∨ k = .checksumMismatch ∨ k = .frameTooLarge ∨ k = .bufferOverrun

theorem FaultBranch.protocol {p : Params} {B : List Byte} {k : DiagKind} {n : Nat} (h : FaultBranch p B k n) :
    k.Protocol := by
  cases h <;> simp [DiagKind.Protocol]

theorem resolveChannel_protocol (p : Params) (ch : Channel) : ∀ k ∈ (resolveChannel p ch).2, k.Protocol :=
  resolveChannel_induction (Q := fun _ r => ∀ k ∈ r.2, k.Protocol) (fun _ _ _ => by simp)
    (fun _ _ _ _ hb ih => by simpa using ⟨hb.protocol, ih⟩) ch

/-- Only a full buffer overruns (R171). -/
theorem FaultBranch.ne_overrun {p : Params} {B : List Byte} {k : DiagKind} {n : Nat} (h : FaultBranch p B k n)
    (hB : B.length < p.cap) : k ≠ .bufferOverrun := by
  cases h with
  | overrunHdr _ hfull => omega
  | overrunBody _ _ hfull => omega
  | _ => simp

/-- A buffer with room never overruns: every iteration makes more room. -/
theorem resolveChannel_no_overrun {p : Params} {ch : Channel} (h : ch.buf.length < p.cap) :
    .bufferOverrun ∉ (resolveChannel p ch).2 := by
  revert h
  refine resolveChannel_induction (Q := fun ch r => ch.buf.length < p.cap → .bufferOverrun ∉ r.2) ?_ ?_ ch
  · intro _ _ _ _
    simp
  · intro ch k n r hb ih h
    rw [List.mem_cons, not_or]
    refine ⟨(hb.ne_overrun h).symm, ih ?_⟩
    exact (List.drop_sublist n ch.buf).length_le.trans_lt h

/-- After its first fault RESOLVE has room, so no later fault is an overrun (R254). -/
theorem resolveChannel_overrun_first {p : Params} {ch : Channel} (h : ch.buf.length ≤ p.cap) :
    .bufferOverrun ∉ (resolveChannel p ch).2.tail := by
  rcases resolveOnce_cases p ch with ⟨ch', hdone, -⟩ | ⟨k, n, hagain, hb⟩
  · simp [resolveChannel_done hdone]
  · rw [resolveChannel_again hagain hb]
    refine resolveChannel_no_overrun ?_
    have hd := hb.drops
    rw [errorDrop_buf, List.length_drop]
    omega

end Sys2Proof.Machine

namespace Sys2Proof.Proofs

open Sys2Proof Sys2Proof.Machine

/-- Settles O21: the two returns to a wait state. -/
theorem resolveWaitsForMoreBytes : Obligations.ResolveWaitsForMoreBytes := by
  intro c s hroom
  refine ⟨fun hv => ?_, fun i hv => ?_⟩
  · rw [exec_resolve, State.resolve_of_settled (.header hv hroom), Channel.waitIn]
  · rw [exec_resolve, State.resolve_of_settled (.body i hv hroom), Channel.waitIn]

/-- Settles O22: the overrun branch, from either verdict. -/
theorem resolveOverrunDropsTheOldestByte : Obligations.ResolveOverrunDropsTheOldestByte := by
  intro c s hfull hv
  rcases hv with hv | ⟨i, hv⟩
  · exact exec_resolve_of_fault (.overrunHdr hv hfull)
  · exact exec_resolve_of_fault (.overrunBody i hv hfull)

/-- Settles O23: the malformed and the too-large branch. -/
theorem resolveLengthFaultsDropTheMarker : Obligations.ResolveLengthFaultsDropTheMarker := fun _ i L _ =>
  ⟨fun hv => exec_resolve_of_fault (.malformed i L hv), fun hv => exec_resolve_of_fault (.tooLarge i L hv)⟩

/-- Settles O24: the checksum branch. -/
theorem resolveChecksumFaultDropsTheFrame : Obligations.ResolveChecksumFaultDropsTheFrame := fun _ i L _ hv =>
  exec_resolve_of_fault (.csumBad i L hv)

/-- Settles O25: the accept branch. -/
theorem resolveAcceptsAGoodFrame : Obligations.ResolveAcceptsAGoodFrame := by
  intro c i L s hv
  rw [exec_resolve, State.resolve_of_settled (.good i L hv), Channel.accept]

/-- Settles O29: the faults of RESOLVE's loop, each raised at the channel. -/
theorem overrunIsOnlyTheFirstFault : Obligations.OverrunIsOnlyTheFirstFault := fun c s hcap =>
  ⟨s.resolve c, (resolveChannel s.params (s.ch c)).2, exec_resolve c s, by rw [State.resolve_eq]; simp,
    resolveChannel_protocol s.params (s.ch c), resolveChannel_overrun_first hcap⟩

end Sys2Proof.Proofs
end

section
/-! PROOFS. What a step of a channel writes, as one update of that channel, its source, its sink and its records; every
operation in outline; and O14, O16, O20, O32, O42, O46, O47 and O58 (spec/42_bridge.md section 3,
spec/41_transport.md R143, R145 and R149, spec/60_exceptions.md R251, spec/70_reset_and_hazards.md R280). -/

namespace Sys2Proof.Machine

open Sys2Proof

/-! ### One update of a channel -/

/-- What a step of a channel can write: the channel, its source, what it emits and the faults it raises. -/
structure Change where
  ch : Channel
  pend : List Byte
  out : List Byte
  faults : List DiagKind

/-- The state after a change of channel `c`. -/
def State.change (s : State) (c : Chan) (x : Change) : State :=
  (((s.setCh c x.ch).setPend c x.pend).emit c x.out).raise x.faults (originOf c)

/-- The change that changes nothing. -/
def State.stay (s : State) (c : Chan) : Change := ⟨s.ch c, s.pend c, [], []⟩

/-- One change after another. -/
def Change.andThen (x y : Change) : Change := ⟨y.ch, y.pend, x.out ++ y.out, x.faults ++ y.faults⟩

namespace State

@[simp] theorem ch_change (s : State) (c : Chan) (x : Change) : (s.change c x).ch c = x.ch := by simp [change]
@[simp] theorem pend_change (s : State) (c : Chan) (x : Change) : (s.change c x).pend c = x.pend := by simp [change]
@[simp] theorem sink_change (s : State) (c : Chan) (x : Change) : (s.change c x).sink c = s.sink c ++ x.out := by
  simp [change]
@[simp] theorem diag_change (s : State) (c : Chan) (x : Change) :
    (s.change c x).diag = s.diag ++ x.faults.map fun k => { kind := k, origin := originOf c } := by simp [change]
@[simp] theorem params_change (s : State) (c : Chan) (x : Change) : (s.change c x).params = s.params := by
  simp [change]
@[simp] theorem usbUp_change (s : State) (c : Chan) (x : Change) : (s.change c x).usbUp = s.usbUp := by simp [change]
@[simp] theorem evm_change (s : State) (c : Chan) (x : Change) : (s.change c x).evm = s.evm := by simp [change]
@[simp] theorem usbClosed_change (s : State) (c : Chan) (x : Change) : (s.change c x).usbClosed = s.usbClosed := by
  simp [change]
@[simp] theorem schedule_change (s : State) (c : Chan) (x : Change) : (s.change c x).schedule = s.schedule := by
  simp [change]
@[simp] theorem result_change (s : State) (c : Chan) (x : Change) : (s.change c x).result = s.result := by
  simp [change]
@[simp] theorem sourceUp_change (s : State) (c : Chan) (x : Change) (c' : Chan) :
    (s.change c x).sourceUp c' = s.sourceUp c' := by simp [change]
@[simp] theorem marks_change (s : State) (c : Chan) (x : Change) : (s.change c x).marks = s.marks := by simp [change]

theorem ch_change_of_ne {s : State} {c c' : Chan} (x : Change) (h : c' ≠ c) : (s.change c x).ch c' = s.ch c' := by
  simp [change, ch_setCh_of_ne _ _ _ _ h]
theorem pend_change_of_ne {s : State} {c c' : Chan} (x : Change) (h : c' ≠ c) :
    (s.change c x).pend c' = s.pend c' := by
  simp [change, pend_setPend_of_ne _ _ _ _ h]
theorem sink_change_of_ne {s : State} {c c' : Chan} (x : Change) (h : c' ≠ c) :
    (s.change c x).sink c' = s.sink c' := by
  simp [change, sink_emit_of_ne _ _ _ _ h]

@[simp] theorem change_stay (s : State) (c : Chan) : s.change c (s.stay c) = s := by
  cases c <;> simp [change, stay, setCh, setPend, emit, raise, ch, pend]

@[simp] theorem change_change (s : State) (c : Chan) (x y : Change) :
    (s.change c x).change c y = s.change c (x.andThen y) := by
  cases c <;> simp [change, Change.andThen, setCh, setPend, emit, raise]

/-- A change writes over the channel. -/
theorem change_setCh (s : State) (c : Chan) (y : Channel) (x : Change) : (s.setCh c y).change c x = s.change c x := by
  simp [change]

/-- A change writes over the source. -/
theorem change_setPend (s : State) (c : Chan) (B : List Byte) (x : Change) :
    (s.setPend c B).change c x = s.change c x := by
  simp [change, setPend_setCh]

/-! ### Each operation of a channel as a change -/

theorem resolve_eq_change (s : State) (c : Chan) : s.resolve c = s.change c
    ⟨(resolveChannel s.params (s.ch c)).1, s.pend c, [], (resolveChannel s.params (s.ch c)).2⟩ := by
  cases c <;> simp [resolve_eq, change, setCh, setPend, emit, pend]

/-- An enabled RECV (R143). -/
theorem recv_eq_change {s : State} {c : Chan} {k : Nat} (h : recvEnabled s c k = true) : s.recv c k = s.change c
    ⟨(resolveChannel s.params (s.filled c k)).1, (s.pend c).drop k, [],
      (resolveChannel s.params (s.filled c k)).2⟩ := by
  rw [recv_enabled h, resolve_eq_change, change_setPend, change_setCh]
  simp

/-- An emission (R146). -/
theorem sent_eq_change (s : State) (c : Chan) (k : Nat) : s.sent c k = s.change c
    ⟨{ s.ch c with wr := (s.ch c).wr + k }, s.pend c, (s.ch c).chunk k, []⟩ := by
  cases c <;> simp [sent, change, setCh, setPend, emit, pend]

/-- The channel that COMPLETE hands to RESOLVE (R176). -/
abbrev consumed (s : State) (c : Chan) : Channel where
  buf := (s.ch c).buf.drop ((s.ch c).fwdOff + (s.ch c).fwdLen)
  st := .waitHeader
  fwdOff := 0
  fwdLen := 0
  wr := 0

theorem complete_eq_change (s : State) (c : Chan) : s.complete c = s.change c
    ⟨(resolveChannel s.params (s.consumed c)).1, s.pend c, [], (resolveChannel s.params (s.consumed c)).2⟩ := by
  rw [complete_eq, resolve_eq_change, change_setCh]
  simp

/-- An enabled SEND of the frame's last byte (R146, R176). -/
theorem sent_complete_eq_change (s : State) (c : Chan) (k : Nat) : (s.sent c k).complete c = s.change c
    ⟨(resolveChannel s.params (s.consumed c)).1, s.pend c, (s.ch c).chunk k,
      (resolveChannel s.params (s.consumed c)).2⟩ := by
  rw [complete_eq_change, sent_eq_change, change_change]
  simp [Change.andThen, consumed]

/-- Bytes arrive (R141, R142). -/
theorem inject_eq_change {s : State} {c : Chan} (C : List Byte) (h : s.sourceUp c = true) :
    s.inject c C = s.change c ⟨s.ch c, s.pend c ++ C, [], []⟩ := by
  rw [inject_of_sourceUp C h]
  cases c <;> simp [change, setCh, setPend, emit, ch, pend]

/-- A read times out (R145). -/
theorem timeout_eq_change {s : State} {c : Chan} (h : timeoutEnabled s c = true) :
    s.timeout c = s.change c ⟨s.ch c, s.pend c, [], [.transportTimeout]⟩ := by
  rw [timeout_enabled h]
  cases c <;> simp [change, setCh, setPend, emit, ch, pend]

/-- A TIMEOUT that is not enabled (R13). -/
theorem timeout_disabled {s : State} {c : Chan} (h : timeoutEnabled s c = false) : s.timeout c = s := by
  simp [timeout, h]

end State

/-! ### The guards of RECV and TIMEOUT in the rules' words -/

theorem ChSt.isWait_iff {st : ChSt} : st.isWait = true ↔ st = .waitHeader ∨ st = .waitBody := by
  cases st <;> simp [ChSt.isWait]

/-- The source's link in R143's words: only H2S needs `usb_up`. -/
theorem State.sourceUp_iff (s : State) (c : Chan) : s.sourceUp c = true ↔ (c = .h2s → s.usbUp = true) := by
  cases c <;> simp [sourceUp]

/-- The USB bound of R144, which only H2S has. -/
theorem chunkBound_iff {p : Params} {c : Chan} {k : Nat} : chunkBound p c k = true ↔ (c = .h2s → k ≤ p.usbMps) := by
  cases c <;> simp [chunkBound]

/-- The guard of the model's RECV is the condition of R143 and R144. -/
theorem recvEnabled_iff {s : State} {c : Chan} {k : Nat} : recvEnabled s c k = true ↔ RecvReady s c k := by
  simp only [recvEnabled, RecvReady, Bool.and_eq_true, decide_eq_true_eq, ChSt.isWait_iff, State.sourceUp_iff,
    chunkBound_iff, le_min_iff, imp_and, and_assoc]
  rw [State.freeSpace, cap_eq]

/-- The guard of the model's TIMEOUT is R145's condition. -/
theorem timeoutEnabled_iff {s : State} {c : Chan} : timeoutEnabled s c = true ↔ TimeoutReady s c := by
  simp only [timeoutEnabled, TimeoutReady, Bool.and_eq_true, ChSt.isWait_iff, State.sourceUp_iff, List.isEmpty_iff,
    and_assoc]

/-! ### Operations that change one channel and raise protocol faults only -/

/-- From `s` to `t` only channel `c`, its source, its sink and its records change, and the records are of protocol
faults. -/
def Relays (c : Chan) (s t : State) : Prop := ∃ x : Change, t = s.change c x ∧ ∀ k ∈ x.faults, k.Protocol

theorem Relays.refl (c : Chan) (s : State) : Relays c s s := ⟨s.stay c, by simp, by simp [State.stay]⟩

theorem Relays.trans {c : Chan} {s t u : State} (h : Relays c s t) (h' : Relays c t u) : Relays c s u := by
  obtain ⟨x, rfl, hx⟩ := h
  obtain ⟨y, rfl, hy⟩ := h'
  refine ⟨x.andThen y, by simp, fun k hk => ?_⟩
  rcases List.mem_append.mp hk with hk | hk
  · exact hx k hk
  · exact hy k hk

theorem relays_resolve (s : State) (c : Chan) : Relays c s (s.resolve c) :=
  ⟨_, s.resolve_eq_change c, resolveChannel_protocol _ _⟩

theorem relays_complete (s : State) (c : Chan) : Relays c s (s.complete c) :=
  ⟨_, s.complete_eq_change c, resolveChannel_protocol _ _⟩

theorem relays_recv (s : State) (c : Chan) (k : Nat) : Relays c s (s.recv c k) := by
  cases h : recvEnabled s c k with
  | false => rw [State.recv_disabled h]; exact .refl c s
  | true => exact ⟨_, State.recv_eq_change h, resolveChannel_protocol _ _⟩

theorem relays_sent (s : State) (c : Chan) (k : Nat) : Relays c s (s.sent c k) :=
  ⟨_, s.sent_eq_change c k, by simp⟩

theorem relays_send (s : State) (c : Chan) (k : Nat) : Relays c s (s.send c k) := by
  rcases s.send_cases c k with h | h | h <;> rw [h]
  · exact .refl c s
  · exact relays_sent s c k
  · exact (relays_sent s c k).trans (relays_complete _ c)

theorem relays_inject (s : State) (c : Chan) (C : List Byte) : Relays c s (s.inject c C) := by
  cases h : s.sourceUp c with
  | false => rw [State.inject_of_sourceDown C h]; exact .refl c s
  | true => exact ⟨_, State.inject_eq_change C h, by simp⟩

theorem relays_deliver (s : State) (c : Chan) (F : List Byte) : Relays c s (s.deliver c F) :=
  State.deliver_keeps (Q := Relays c s) (fun _ C h => h.trans (relays_inject _ c C))
    (fun _ k h => h.trans (relays_recv _ c k)) (fun _ k h => h.trans (relays_send _ c k)) F (.refl c s)

/-! ### The link and RESET, field by field -/

namespace State

/-- USB_DISCONNECT with the link up (R149). -/
theorem disconnect_of_up {s : State} (h : s.usbUp = true) : s.disconnect = { s with
    usbUp := false
    pendH2S := []
    h2s := s.h2s.drain
    s2h := s.s2h.restart
    usbClosed := s.usbClosed ++ [s.usbCurrent]
    usbCurrent := []
    diag := s.diag ++ [{ kind := .transportDisconnected, origin := .usb }] } := by
  rw [disconnect, if_pos h]
  rfl

/-- USB_DISCONNECT with the link down has no move (R149). -/
theorem disconnect_of_down {s : State} (h : s.usbUp = false) : s.disconnect = s := by
  simp [disconnect, h]

/-- RESET with the link up closes the session (R280, D36). -/
theorem toReset_of_up {s : State} (h : s.usbUp = true) : s.toReset = { s with
    h2s := .reset
    s2h := .reset
    pendH2S := []
    pendS2H := []
    usbUp := false
    evm := .reset
    usbClosed := s.usbClosed ++ [s.usbCurrent]
    usbCurrent := [] } := by
  simp [toReset, h, closeSession]

/-- RESET with the link down (R280). -/
theorem toReset_of_down {s : State} (h : s.usbUp = false) : s.toReset = { s with
    h2s := .reset
    s2h := .reset
    pendH2S := []
    pendS2H := []
    usbUp := false
    evm := .reset } := by
  simp [toReset, h]

end State

theorem exec_usbDisconnect (s : State) : exec .usbDisconnect s = .next s.disconnect := rfl
theorem exec_reset (s : State) : exec .reset s = .next s.toReset := rfl

/-! ### Every operation in outline -/

/-- What every operation does, as far as the traces, the records and the model's own fields go. -/
inductive Outline (i : Instr) (s : State) : State → Prop where
  | relays {t : State} (c : Chan) (h : Relays c s t) : Outline i s t
  | timeout (c : Chan) (h : i = .timeout c) : Outline i s (s.raise [.transportTimeout] (originOf c))
  | notes (e : EventMonitor) (r : Option Result) (ms : List Mark) :
      Outline i s { s with evm := e, result := r, marks := s.marks ++ ms }
  | connect : Outline i s { s with usbUp := true }
  | disconnect (h : i = .usbDisconnect) (hup : s.usbUp = true) : Outline i s s.disconnect
  | reset : Outline i s s.toReset

/-- An operation that writes no mark. -/
theorem Outline.monitor (i : Instr) (s : State) (e : EventMonitor) (r : Option Result) :
    Outline i s { s with evm := e, result := r } := by
  simpa using Outline.notes (i := i) (s := s) e r []

theorem Outline.stay (i : Instr) (s : State) : Outline i s s := .relays .h2s (.refl .h2s s)

theorem Effect.outline {i : Instr} {s t : State} (h : Effect i s t) : Outline i s t := by
  cases h with
  | answer r => exact .monitor i s s.evm (some r)
  | refuse m => exact .notes s.evm s.result [m]
  | inject c C => exact .relays c (relays_inject s c C)
  | recv c k => exact .relays c (relays_recv s c k)
  | timeout c hi =>
    cases he : timeoutEnabled s c with
    | false => rw [State.timeout_disabled he]; exact .stay i s
    | true => rw [State.timeout_enabled he]; exact .timeout c hi
  | send c k => exact .relays c (relays_send s c k)
  | connect =>
    cases hup : s.usbUp with
    | false => rw [State.connect_of_down hup]; exact .connect
    | true => rw [State.connect_of_up hup]; exact .stay i s
  | disconnect hi =>
    cases hup : s.usbUp with
    | false => rw [State.disconnect_of_down hup]; exact .stay i s
    | true => exact .disconnect hi hup
  | resolve c _ => exact .relays c (relays_resolve s c)
  | complete c _ => exact .relays c (relays_complete s c)
  | sample v t =>
    unfold State.sample
    split
    · exact .notes s.evm s.result [.sampleTime]
    · exact .monitor i s _ s.result
  | commit t => exact .monitor i s _ s.result
  | publish e => exact .monitor i s _ s.result
  | take => exact .monitor i s _ _
  | transition d _ => exact .monitor i s _ s.result
  | reset => exact .reset
  | deliver c F => exact .relays c (relays_deliver s c F)

/-! ### The traces (R35) -/

/-- The traces of `t` continue those of `s`: the last clause is the current session, or a closed one and an empty new
one. -/
structure TracesGrow (s t : State) : Prop where
  uart : s.uartOut <+: t.uartOut
  diag : s.diag <+: t.diag
  marks : s.marks <+: t.marks
  usb : (t.usbClosed = s.usbClosed ∧ s.usbCurrent <+: t.usbCurrent)
    ∨ (t.usbClosed = s.usbClosed ++ [s.usbCurrent] ∧ t.usbCurrent = [])

theorem Relays.tracesGrow {c : Chan} {s t : State} (h : Relays c s t) : TracesGrow s t := by
  obtain ⟨x, rfl, -⟩ := h
  cases c
  · exact ⟨List.prefix_append _ _, by simp, by simp, .inl ⟨rfl, List.prefix_rfl⟩⟩
  · exact ⟨List.prefix_rfl, by simp, by simp, .inl ⟨rfl, List.prefix_append _ _⟩⟩

theorem Outline.tracesGrow {i : Instr} {s t : State} (h : Outline i s t) : TracesGrow s t := by
  cases h with
  | relays c h => exact h.tracesGrow
  | timeout c _ => exact ⟨List.prefix_rfl, List.prefix_append _ _, List.prefix_rfl, .inl ⟨rfl, List.prefix_rfl⟩⟩
  | notes e r ms => exact ⟨List.prefix_rfl, List.prefix_rfl, List.prefix_append _ _, .inl ⟨rfl, List.prefix_rfl⟩⟩
  | connect => exact ⟨List.prefix_rfl, List.prefix_rfl, List.prefix_rfl, .inl ⟨rfl, List.prefix_rfl⟩⟩
  | disconnect _ hup =>
    rw [State.disconnect_of_up hup]
    exact ⟨List.prefix_rfl, List.prefix_append _ _, List.prefix_rfl, .inr ⟨rfl, rfl⟩⟩
  | reset =>
    cases hup : s.usbUp with
    | false =>
      rw [State.toReset_of_down hup]
      exact ⟨List.prefix_rfl, List.prefix_rfl, List.prefix_rfl, .inl ⟨rfl, List.prefix_rfl⟩⟩
    | true =>
      rw [State.toReset_of_up hup]
      exact ⟨List.prefix_rfl, List.prefix_rfl, List.prefix_rfl, .inr ⟨rfl, rfl⟩⟩

/-! ### The constants and the schedule -/

theorem Outline.constants {i : Instr} {s t : State} (h : Outline i s t) :
    t.params = s.params ∧ t.schedule = s.schedule := by
  cases h with
  | relays c h =>
    obtain ⟨x, rfl, -⟩ := h
    exact ⟨s.params_change c x, s.schedule_change c x⟩
  | timeout c _ => exact ⟨rfl, rfl⟩
  | notes e r ms => exact ⟨rfl, rfl⟩
  | connect => exact ⟨rfl, rfl⟩
  | disconnect _ hup => rw [State.disconnect_of_up hup]; exact ⟨rfl, rfl⟩
  | reset =>
    cases hup : s.usbUp with
    | false => rw [State.toReset_of_down hup]; exact ⟨rfl, rfl⟩
    | true => rw [State.toReset_of_up hup]; exact ⟨rfl, rfl⟩

/-! ### The records an operation appends (R251) -/

/-- Of a record that operation `i` appends: it names the link exactly for `TransportDisconnected`, which only
USB_DISCONNECT appends, and only TIMEOUT appends `TransportTimeout`. -/
structure RecordOf (i : Instr) (q : DiagRecord) : Prop where
  usb : q.kind = .transportDisconnected ↔ q.origin = .usb
  disconnect : q.kind = .transportDisconnected → i = .usbDisconnect
  timeout : q.kind = .transportTimeout → ∃ c, i = .timeout c

theorem originOf_ne_usb (c : Chan) : originOf c ≠ .usb := by cases c <;> simp [originOf]

theorem recordOf_protocol (i : Instr) (c : Chan) {k : DiagKind} (h : k.Protocol) : RecordOf i ⟨k, originOf c⟩ := by
  rcases h with rfl | rfl | rfl | rfl <;> exact ⟨by simp [originOf_ne_usb], nofun, nofun⟩

theorem Outline.records {i : Instr} {s t : State} (h : Outline i s t) :
    ∃ rs, t.diag = s.diag ++ rs ∧ ∀ q ∈ rs, RecordOf i q := by
  cases h with
  | relays c h =>
    obtain ⟨x, rfl, hx⟩ := h
    refine ⟨_, s.diag_change c x, fun q hq => ?_⟩
    obtain ⟨k, hk, rfl⟩ := List.mem_map.mp hq
    exact recordOf_protocol i c (hx k hk)
  | timeout c hi =>
    refine ⟨_, rfl, fun q hq => ?_⟩
    obtain rfl : q = ⟨.transportTimeout, originOf c⟩ := by simpa using hq
    exact ⟨by simp [originOf_ne_usb], nofun, fun _ => ⟨c, hi⟩⟩
  | notes e r ms => exact ⟨[], by simp, nofun⟩
  | connect => exact ⟨[], by simp, nofun⟩
  | disconnect hi hup =>
    rw [State.disconnect_of_up hup]
    refine ⟨_, rfl, fun q hq => ?_⟩
    obtain rfl : q = ⟨.transportDisconnected, .usb⟩ := by simpa using hq
    exact ⟨by simp, fun _ => hi, nofun⟩
  | reset =>
    cases hup : s.usbUp with
    | false => rw [State.toReset_of_down hup]; exact ⟨[], by simp, nofun⟩
    | true => rw [State.toReset_of_up hup]; exact ⟨[], by simp, nofun⟩

/-! ### What an operation of a channel leaves alone -/

/-- The rest of the state after an operation of channel `c`. -/
theorem change_keeps_the_rest (s : State) (c : Chan) (x : Change) :
    (∀ c', c' ≠ c → (s.change c x).ch c' = s.ch c' ∧ (s.change c x).pend c' = s.pend c'
        ∧ (s.change c x).sink c' = s.sink c')
      ∧ ∃ rs, (s.change c x).diag = s.diag ++ rs ∧ ∀ r ∈ rs, r.origin = originOf c := by
  refine ⟨fun c' hne => ⟨State.ch_change_of_ne x hne, State.pend_change_of_ne x hne, State.sink_change_of_ne x hne⟩,
    _, s.diag_change c x, fun r hr => ?_⟩
  obtain ⟨k, -, rfl⟩ := List.mem_map.mp hr
  rfl

/-- A TIMEOUT, enabled or not, is a change that only records. -/
theorem timeout_changes (s : State) (c : Chan) :
    ∃ ks, s.timeout c = s.change c ⟨s.ch c, s.pend c, [], ks⟩ := by
  cases h : timeoutEnabled s c with
  | false => exact ⟨[], (State.timeout_disabled h).trans (s.change_stay c).symm⟩
  | true => exact ⟨_, State.timeout_eq_change h⟩

@[simp] theorem State.ch_timeout (s : State) (c : Chan) : (s.timeout c).ch c = s.ch c := by
  obtain ⟨ks, h⟩ := timeout_changes s c
  simp [h]
@[simp] theorem State.pend_timeout (s : State) (c : Chan) : (s.timeout c).pend c = s.pend c := by
  obtain ⟨ks, h⟩ := timeout_changes s c
  simp [h]
@[simp] theorem State.sink_timeout (s : State) (c : Chan) : (s.timeout c).sink c = s.sink c := by
  obtain ⟨ks, h⟩ := timeout_changes s c
  simp [h]

end Sys2Proof.Machine

namespace Sys2Proof.Proofs

open Sys2Proof Sys2Proof.Machine

/-- Settles O14: the guard, and what an enabled RECV hands to RESOLVE. -/
theorem recvMovesTheChunkAndResolves : Obligations.RecvMovesTheChunkAndResolves := by
  intro c k s
  refine ⟨fun hready => ⟨s.recv c k, exec_recv c k s, ?_⟩, fun hnot => ?_⟩
  · rw [exec_resolve, State.recv_enabled (recvEnabled_iff.mpr hready)]
  · rw [exec_recv, State.recv_disabled (Bool.eq_false_iff.mpr (mt recvEnabled_iff.mp hnot))]

/-- Settles O16: the guard, and the one record of an enabled TIMEOUT. -/
theorem timeoutOnlyRecords : Obligations.TimeoutOnlyRecords := by
  intro c s
  refine ⟨fun hready => ?_, fun hnot => ?_⟩
  · rw [exec_timeout, State.timeout_enabled (timeoutEnabled_iff.mpr hready)]
    rfl
  · rw [exec_timeout, State.timeout_disabled (Bool.eq_false_iff.mpr (mt timeoutEnabled_iff.mp hnot))]

/-- Settles O20, by the link. -/
theorem disconnectDrainsAndRestarts : Obligations.DisconnectDrainsAndRestarts := by
  intro s
  refine ⟨fun hup => ?_, fun hdown => ?_⟩
  · rw [exec_usbDisconnect, State.disconnect_of_up hup, Channel.drain, Channel.restart]
  · rw [exec_usbDisconnect, State.disconnect_of_down hdown]

/-- Settles O42, by the link, which decides about the session. -/
theorem resetReturnsEveryRegister : Obligations.ResetReturnsEveryRegister := by
  intro s
  cases hup : s.usbUp with
  | false =>
    refine ⟨_, exec_reset s, ?_⟩
    rw [State.toReset_of_down hup]
    exact ⟨rfl, rfl, rfl, rfl, rfl, rfl, rfl, rfl, nofun, fun _ => rfl, rfl, rfl, rfl, rfl⟩
  | true =>
    refine ⟨_, exec_reset s, ?_⟩
    rw [State.toReset_of_up hup]
    exact ⟨rfl, rfl, rfl, rfl, rfl, rfl, rfl, rfl, fun _ => rfl, nofun, rfl, rfl, rfl, rfl⟩

/-- Settles O46, from the outline of every operation. -/
theorem tracesAreOnlyAppendedTo : Obligations.TracesAreOnlyAppendedTo := by
  intro i s t h
  obtain ⟨huart, hdiag, hmarks, husb⟩ := (effect_of_exec h).outline.tracesGrow
  exact ⟨huart, hdiag, hmarks, husb⟩

/-- Settles O47, from the outline of every operation. -/
theorem everyOperationCompletes : Obligations.EveryOperationCompletes := by
  intro i s
  obtain ⟨t, hexec, heff⟩ := exec_effect i s
  exact ⟨t, hexec, heff.outline.constants⟩

/-- Settles O58: the two tables value by value, the records from the outline of every operation. -/
theorem recordsCarryTheirCodes : Obligations.RecordsCarryTheirCodes := by
  refine ⟨by decide, fun q => ?_, fun i s t h => ?_⟩
  · obtain ⟨k, o⟩ := q
    cases k <;> cases o <;> decide
  · obtain ⟨rs, hdiag, hrs⟩ := (effect_of_exec h).outline.records
    exact ⟨rs, hdiag, fun q hq => ⟨(hrs q hq).usb, (hrs q hq).disconnect, (hrs q hq).timeout⟩⟩

/-- Settles O32: every one of these operations is a change of channel `c`. -/
theorem channelOperationsKeepTheRest : Obligations.ChannelOperationsKeepTheRest := by
  intro c i s t hi hexec
  have hchange : ∃ x, t = s.change c x := by
    rcases hi with ⟨k, rfl⟩ | rfl | ⟨k, rfl⟩ | rfl | rfl | rfl | ⟨a, P, rfl⟩ | ⟨a, P, rfl⟩ | ⟨a, P, rfl⟩
      | ⟨a, P, rfl⟩ | ⟨y, a, P, rfl⟩
    all_goals cases hexec
    · exact (relays_recv s c k).imp fun _ h => h.1
    · exact (timeout_changes s c).imp' _ fun _ h => h
    · exact (relays_send s c k).imp fun _ h => h.1
    · exact (relays_resolve s c).imp fun _ h => h.1
    · exact (relays_complete s c).imp fun _ h => h.1
    all_goals exact (relays_deliver s c _).imp fun _ h => h.1
  have hrest : (∀ c', c' ≠ c → t.ch c' = s.ch c' ∧ t.pend c' = s.pend c' ∧ t.sink c' = s.sink c')
      ∧ (t.params = s.params ∧ t.usbUp = s.usbUp ∧ t.evm = s.evm ∧ t.usbClosed = s.usbClosed
        ∧ t.schedule = s.schedule ∧ t.result = s.result ∧ t.marks = s.marks)
      ∧ ∃ rs, t.diag = s.diag ++ rs ∧ ∀ r ∈ rs, r.origin = originOf c := by
    obtain ⟨x, rfl⟩ := hchange
    obtain ⟨hne, hrecords⟩ := change_keeps_the_rest s c x
    exact ⟨hne, by simp, hrecords⟩
  obtain ⟨hne, ⟨hparams, hup, hevm, hclosed, hsched, hres, hmarks⟩, hrecords⟩ := hrest
  refine ⟨hne, hparams, hup, hevm, hclosed, hsched, hres, hmarks, hrecords, ?_, ?_, ?_⟩
  · rintro rfl
    cases hexec
    exact s.ch_timeout c
  · rintro (⟨k, rfl⟩ | rfl | rfl | rfl) <;> cases hexec
    · exact s.sink_recv c k c
    · exact s.sink_timeout c
    · exact s.sink_resolve c c
    · exact s.sink_complete c c
  · rintro (⟨k, rfl⟩ | rfl | rfl | rfl) <;> cases hexec
    · exact s.pend_send c k c
    · exact s.pend_timeout c
    · exact s.pend_resolve c c
    · exact s.pend_complete c c

end Sys2Proof.Proofs
end

section
/-! PROOFS. Steps that touch different parts of the state change places, what a channel emits is fixed by the steps that
bear on it, and O45 and O60 (spec/44_dispatch.md, commutation; notes/assumptions/9.md). -/

namespace Sys2Proof.Machine

open Sys2Proof

/-! ### What a step of a channel reads -/

/-- States that look the same to a step of channel `c`. -/
structure SameView (c : Chan) (s s' : State) : Prop where
  params : s'.params = s.params
  usbUp : s'.usbUp = s.usbUp
  ch : s'.ch c = s.ch c
  pend : s'.pend c = s.pend c

namespace SameView

variable {c : Chan} {s s' : State}

theorem refl (c : Chan) (s : State) : SameView c s s := ⟨rfl, rfl, rfl, rfl⟩

theorem sourceUp (h : SameView c s s') : s'.sourceUp c = s.sourceUp c := by
  cases c
  · exact h.usbUp
  · rfl

theorem sinkUp (h : SameView c s s') : s'.sinkUp c = s.sinkUp c := by
  cases c
  · rfl
  · exact h.usbUp

theorem recvEnabled (h : SameView c s s') (k : Nat) : recvEnabled s' c k = recvEnabled s c k := by
  unfold Machine.recvEnabled State.freeSpace
  rw [h.params, h.ch, h.pend, h.sourceUp]

theorem sendEnabled (h : SameView c s s') (k : Nat) : sendEnabled s' c k = sendEnabled s c k := by
  simp only [Machine.sendEnabled, h.ch, h.sinkUp]

theorem timeoutEnabled (h : SameView c s s') : timeoutEnabled s' c = timeoutEnabled s c := by
  simp only [Machine.timeoutEnabled, h.ch, h.pend, h.sourceUp]

theorem stay (h : SameView c s s') : s'.stay c = s.stay c := by
  simp only [State.stay, h.ch, h.pend]

theorem filled (h : SameView c s s') (k : Nat) : s'.filled c k = s.filled c k := by
  simp only [State.filled, h.ch, h.pend]

theorem consumed (h : SameView c s s') : s'.consumed c = s.consumed c := by
  simp only [State.consumed, h.ch]

end SameView

/-- A change of another channel is not seen. -/
theorem sameView_change_of_ne {c c' : Chan} (s : State) (x : Change) (h : c ≠ c') : SameView c s (s.change c' x) where
  params := s.params_change c' x
  usbUp := s.usbUp_change c' x
  ch := State.ch_change_of_ne x h
  pend := State.pend_change_of_ne x h

/-- An operation that reads and writes the part of channel `c` alone: it makes one change in all states that look the
same to the channel. -/
def LocalTo (c : Chan) (i : Instr) : Prop :=
  ∀ s, ∃ x, ∀ s', SameView c s s' → exec i s' = .next (s'.change c x)

theorem localTo_recv (c : Chan) (k : Nat) : LocalTo c (.recv c k) := by
  intro s
  cases hk : recvEnabled s c k with
  | false =>
    refine ⟨s.stay c, fun s' h => ?_⟩
    rw [exec_recv, State.recv_disabled ((h.recvEnabled k).trans hk), ← h.stay, State.change_stay]
  | true =>
    refine ⟨⟨(resolveChannel s.params (s.filled c k)).1, (s.pend c).drop k, [],
      (resolveChannel s.params (s.filled c k)).2⟩, fun s' h => ?_⟩
    rw [exec_recv, State.recv_eq_change ((h.recvEnabled k).trans hk), h.filled, h.params, h.pend]

theorem localTo_timeout (c : Chan) : LocalTo c (.timeout c) := by
  intro s
  cases he : timeoutEnabled s c with
  | false =>
    refine ⟨s.stay c, fun s' h => ?_⟩
    rw [exec_timeout, State.timeout_disabled (h.timeoutEnabled.trans he), ← h.stay, State.change_stay]
  | true =>
    refine ⟨⟨s.ch c, s.pend c, [], [.transportTimeout]⟩, fun s' h => ?_⟩
    rw [exec_timeout, State.timeout_eq_change (h.timeoutEnabled.trans he), h.ch, h.pend]

theorem localTo_send (c : Chan) (k : Nat) : LocalTo c (.send c k) := by
  intro s
  cases hk : sendEnabled s c k with
  | false =>
    refine ⟨s.stay c, fun s' h => ?_⟩
    rw [exec_send, State.send_disabled ((h.sendEnabled k).trans hk), ← h.stay, State.change_stay]
  | true =>
    by_cases hlast : (s.ch c).wr + k = (s.ch c).fwdLen
    · refine ⟨⟨(resolveChannel s.params (s.consumed c)).1, s.pend c, (s.ch c).chunk k,
        (resolveChannel s.params (s.consumed c)).2⟩, fun s' h => ?_⟩
      rw [exec_send, State.send_last ((h.sendEnabled k).trans hk) (by rw [h.ch]; exact hlast),
        State.sent_complete_eq_change, h.consumed, h.params, h.pend, h.ch]
    · refine ⟨⟨{ s.ch c with wr := (s.ch c).wr + k }, s.pend c, (s.ch c).chunk k, []⟩, fun s' h => ?_⟩
      rw [exec_send, State.send_inside ((h.sendEnabled k).trans hk) (by rw [h.ch]; exact hlast),
        State.sent_eq_change, h.ch, h.pend]

/-- The steps of a channel's agent (R230). -/
theorem channelStep_cases {c : Chan} {i : Instr} (h : opKind i = .step (agentOf c)) :
    (∃ k, i = .recv c k) ∨ i = .timeout c ∨ ∃ k, i = .send c k := by
  have hagent : ∀ c', agentOf c' = agentOf c → c' = c := by
    intro c' hc
    cases c <;> cases c' <;> simp [agentOf] at hc ⊢
  have henv : agentOf c ≠ .env ∧ agentOf c ≠ .evm := by cases c <;> simp [agentOf]
  cases i with
  | recv c' k => obtain rfl := hagent c' (OpKind.step.inj h); exact .inl ⟨k, rfl⟩
  | timeout c' => obtain rfl := hagent c' (OpKind.step.inj h); exact .inr (.inl rfl)
  | send c' k => obtain rfl := hagent c' (OpKind.step.inj h); exact .inr (.inr ⟨k, rfl⟩)
  | _ => simp [opKind, henv.1.symm, henv.2.symm] at h

theorem localTo_of_channelStep {c : Chan} {i : Instr} (h : opKind i = .step (agentOf c)) : LocalTo c i := by
  rcases channelStep_cases h with ⟨k, rfl⟩ | rfl | ⟨k, rfl⟩
  · exact localTo_recv c k
  · exact localTo_timeout c
  · exact localTo_send c k

/-! ### Arrivals -/

/-- The arrival of bytes on the source of a channel: INJECT_USB or INJECT_UART (R141, R142). -/
def arrival : Chan → List Byte → Instr
  | .h2s, C => .injectUsb C
  | .s2h, C => .injectUart C

theorem exec_arrival (c : Chan) (C : List Byte) (s : State) : exec (arrival c C) s = .next (s.inject c C) := by
  cases c <;> rfl

theorem enabled_arrival (c : Chan) (C : List Byte) (s : State) : enabled s (arrival c C) = s.sourceUp c := by
  cases c <;> rfl

theorem arrivesOn_arrival {c c' : Chan} {C : List Byte} : ArrivesOn c (arrival c' C) ↔ c = c' ∧ C ≠ [] := by
  cases c' <;> rfl

theorem localTo_arrival (c : Chan) (C : List Byte) : LocalTo c (arrival c C) := by
  intro s
  cases hup : s.sourceUp c with
  | false =>
    refine ⟨s.stay c, fun s' h => ?_⟩
    rw [exec_arrival, State.inject_of_sourceDown C (h.sourceUp.trans hup), ← h.stay, State.change_stay]
  | true =>
    refine ⟨⟨s.ch c, s.pend c ++ C, [], []⟩, fun s' h => ?_⟩
    rw [exec_arrival, State.inject_eq_change C (h.sourceUp.trans hup), h.ch, h.pend]

@[simp] theorem State.diag_inject (s : State) (c : Chan) (C : List Byte) : (s.inject c C).diag = s.diag := by
  unfold State.inject
  split <;> simp

/-! ### Changes of different channels change places, but for `diag` -/

theorem originOf_ne {c c' : Chan} (h : c ≠ c') : originOf c ≠ originOf c' := by
  cases c <;> cases c' <;> simp [originOf] at h ⊢

theorem clear_change_comm {c c' : Chan} (s : State) (x y : Change) (h : c ≠ c') :
    { (s.change c x).change c' y with diag := [] } = { (s.change c' y).change c x with diag := [] } := by
  cases c <;> cases c'
  · exact absurd rfl h
  · rfl
  · rfl
  · exact absurd rfl h

theorem recordsOf_change_of_ne {s : State} {c : Chan} {o : Origin} (x : Change) (h : o ≠ originOf c) :
    (s.change c x).recordsOf o = s.recordsOf o := by
  simp [State.change, State.recordsOf_raise_of_ne _ _ _ _ h]

theorem recordsOf_change (s : State) (c : Chan) (x : Change) : (s.change c x).recordsOf (originOf c)
    = s.recordsOf (originOf c) ++ x.faults.map fun k => { kind := k, origin := originOf c } := by
  simp [State.change, State.recordsOf_raise]

theorem recordsOf_change_comm {c c' : Chan} (s : State) (x y : Change) (h : c ≠ c') (o : Origin) :
    ((s.change c x).change c' y).recordsOf o = ((s.change c' y).change c x).recordsOf o := by
  by_cases ho : o = originOf c
  · subst ho
    have hne := originOf_ne h
    rw [recordsOf_change_of_ne y hne, recordsOf_change, recordsOf_change, recordsOf_change_of_ne y hne]
  · by_cases ho' : o = originOf c'
    · subst ho'
      rw [recordsOf_change_of_ne x ho, recordsOf_change, recordsOf_change, recordsOf_change_of_ne x ho]
    · rw [recordsOf_change_of_ne y ho', recordsOf_change_of_ne x ho, recordsOf_change_of_ne x ho,
        recordsOf_change_of_ne y ho']

/-- States that agree in all but `diag`, and in `diag`, are the same. -/
theorem State.eq_of_clear {s t : State} (h : { s with diag := [] } = { t with diag := [] }) (hd : s.diag = t.diag) :
    s = t := by
  cases s; cases t
  simp_all

theorem change_comm_of_silent {c c' : Chan} (s : State) (x y : Change) (h : c ≠ c') (hy : y.faults = []) :
    (s.change c x).change c' y = (s.change c' y).change c x :=
  State.eq_of_clear (clear_change_comm s x y h) (by simp [hy])

/-- Two orders of steps that leave the same state but for the interleaving of the records (notes/assumptions/9.md). -/
structure SameButOrder (ab ba : State) : Prop where
  clear : { ab with diag := [] } = { ba with diag := [] }
  records : ∀ o, ab.recordsOf o = ba.recordsOf o

theorem SameButOrder.refl (s : State) : SameButOrder s s := ⟨rfl, fun _ => rfl⟩

/-- Operations local to different channels change places. -/
theorem local_commute {c c' : Chan} {i j : Instr} {s a ab b ba : State} (hne : c ≠ c') (hi : LocalTo c i)
    (hj : LocalTo c' j) (ha : exec i s = .next a) (hab : exec j a = .next ab) (hb : exec j s = .next b)
    (hba : exec i b = .next ba) : SameButOrder ab ba ∧ (b.diag = s.diag → ab = ba) := by
  obtain ⟨x, hx⟩ := hi s
  obtain ⟨y, hy⟩ := hj s
  cases ha.symm.trans (hx s (.refl c s))
  cases hb.symm.trans (hy s (.refl c' s))
  cases hab.symm.trans (hy _ (sameView_change_of_ne s x hne.symm))
  cases hba.symm.trans (hx _ (sameView_change_of_ne s y hne))
  refine ⟨⟨clear_change_comm s x y hne, recordsOf_change_comm s x y hne⟩, fun hsilent => ?_⟩
  exact change_comm_of_silent s x y hne (by simpa using hsilent)

/-! ### The monitor's steps -/

/-- SAMPLE and TAKE: the steps on the monitor (R201, R205). -/
def OnMonitor (i : Instr) : Prop := (∃ v t, i = .sample v t) ∨ i = .take

/-- A step on the monitor sees no channel and is seen by none. -/
theorem onMonitor_effect {i : Instr} (h : OnMonitor i) : ∃ f : State → State, (∀ s, exec i s = .next (f s))
    ∧ (∀ s c x, f (s.change c x) = (f s).change c x) ∧ ∀ s c, SameView c s (f s) ∧ emitted (f s) c = emitted s c := by
  rcases h with ⟨v, t, rfl⟩ | rfl
  · refine ⟨fun s => s.sample v t, exec_sample v t, fun s c x => ?_, fun s c => ?_⟩
    · by_cases ht : t < s.evm.lastT <;> cases c <;>
        simp [State.sample, ht, State.change, State.refuse, State.setCh, State.setPend, State.emit, State.raise]
    · change SameView c s (s.sample v t) ∧ emitted (s.sample v t) c = emitted s c
      unfold State.sample
      cases c <;> split <;> exact ⟨⟨rfl, rfl, rfl, rfl⟩, rfl⟩
  · refine ⟨State.take, fun _ => rfl, fun s c x => ?_, fun s c => ?_⟩
    · cases c <;> rfl
    · cases c <;> exact ⟨⟨rfl, rfl, rfl, rfl⟩, rfl⟩

/-- A step on the monitor and an operation local to a channel change places. -/
theorem monitor_commute {c : Chan} {i j : Instr} {s a ab b ba : State} (hi : LocalTo c i) (hj : OnMonitor j)
    (ha : exec i s = .next a) (hab : exec j a = .next ab) (hb : exec j s = .next b) (hba : exec i b = .next ba) :
    ab = ba := by
  obtain ⟨f, hf, hchange, hview⟩ := onMonitor_effect hj
  obtain ⟨x, hx⟩ := hi s
  cases ha.symm.trans (hx s (.refl c s))
  cases hb.symm.trans (hf s)
  cases hab.symm.trans (hf _)
  cases hba.symm.trans (hx _ (hview s c).1)
  exact hchange s c x

/-! ### An arrival on the channel itself -/

/-- More bytes on the source leave a read as it is: it takes the first ones. -/
theorem recv_inject_comm {s : State} {c : Chan} {k : Nat} (C : List Byte) (h : recvEnabled s c k = true) :
    (s.recv c k).inject c C = (s.inject c C).recv c k := by
  obtain ⟨hst, hpos, hle, hlink⟩ := recvEnabled_iff.mp h
  have hk := (le_min_iff.mp hle).2
  have hup : s.sourceUp c = true := (s.sourceUp_iff c).mpr fun hc => (hlink hc).1
  have hup' : (s.recv c k).sourceUp c = true := by rw [State.recv_eq_change h, State.sourceUp_change, hup]
  have hen : recvEnabled (s.setPend c (s.pend c ++ C)) c k = true := by
    refine recvEnabled_iff.mpr ⟨by simpa using hst, hpos, ?_, by simpa using hlink⟩
    simp only [State.params_setPend, State.ch_setPend, State.pend_setPend, List.length_append]
    omega
  have hfill : (s.setPend c (s.pend c ++ C)).filled c k = s.filled c k := by
    simp [State.filled, List.take_append_of_le_length hk]
  rw [State.inject_of_sourceUp C hup, State.recv_eq_change hen, State.change_setPend, hfill, State.params_setPend,
    State.pend_setPend, List.drop_append_of_le_length hk, State.inject_eq_change C hup', State.recv_eq_change h,
    State.change_change]
  simp [Change.andThen]

/-- A send does not see its channel's source. -/
theorem State.setPend_send (s : State) (c : Chan) (k : Nat) (B : List Byte) :
    (s.setPend c B).send c k = (s.send c k).setPend c B := by
  have hen : sendEnabled (s.setPend c B) c k = sendEnabled s c k := by simp [sendEnabled]
  have hover : ∀ x : Change, x.pend = B → s.change c x = (s.change c { x with pend := s.pend c }).setPend c B := by
    rintro x rfl
    cases c <;> simp [State.change, State.setCh, State.setPend, State.emit, State.raise]
  cases h : sendEnabled s c k with
  | false => rw [send_disabled h, send_disabled (hen.trans h)]
  | true =>
    by_cases hlast : (s.ch c).wr + k = (s.ch c).fwdLen
    · rw [send_last h hlast, send_last (hen.trans h) (by simpa using hlast), sent_complete_eq_change,
        sent_complete_eq_change, change_setPend, hover _ (s.pend_setPend c B)]
      simp [consumed]
    · rw [send_inside h hlast, send_inside (hen.trans h) (by simpa using hlast), sent_eq_change, sent_eq_change,
        change_setPend, hover _ (s.pend_setPend c B)]
      simp

theorem send_inject_comm (s : State) (c : Chan) (k : Nat) (C : List Byte) :
    (s.send c k).inject c C = (s.inject c C).send c k := by
  have hup : (s.send c k).sourceUp c = s.sourceUp c := by cases c <;> simp [State.sourceUp]
  cases h : s.sourceUp c with
  | false => rw [State.inject_of_sourceDown C h, State.inject_of_sourceDown C (hup.trans h)]
  | true =>
    rw [State.inject_of_sourceUp C h, State.inject_of_sourceUp C (hup.trans h), State.setPend_send, State.pend_send]

/-! ### Which part a step touches, seen from channel `c` -/

/-- The steps of R230 as channel `c` sees them. -/
inductive Role (c : Chan) (i : Instr) : Prop where
  | own (h : opKind i = .step (agentOf c))
  | fed (C : List Byte) (h : i = arrival c C)
  | other (c' : Chan) (hne : c ≠ c') (h : opKind i = .step (agentOf c'))
  | otherFed (c' : Chan) (hne : c ≠ c') (C : List Byte) (h : i = arrival c' C)
  | monitor (h : OnMonitor i)
  | link (h : changesLink i = true)

theorem role_of_arrival (c c' : Chan) (C : List Byte) : Role c (arrival c' C) := by
  by_cases h : c = c'
  · exact .fed C (by rw [h])
  · exact .otherFed c' h C rfl

theorem role_of_channelStep (c c' : Chan) {i : Instr} (h : opKind i = .step (agentOf c')) : Role c i := by
  by_cases hc : c = c'
  · exact .own (hc ▸ h)
  · exact .other c' hc h

theorem role_of_step {i : Instr} (h : ∃ g, opKind i = .step g) (c : Chan) : Role c i := by
  obtain ⟨g, h⟩ := h
  cases i with
  | injectUart C => exact role_of_arrival c .s2h C
  | injectUsb C => exact role_of_arrival c .h2s C
  | recv c' k => exact role_of_channelStep c c' rfl
  | timeout c' => exact role_of_channelStep c c' rfl
  | send c' k => exact role_of_channelStep c c' rfl
  | usbConnect => exact .link rfl
  | usbDisconnect => exact .link rfl
  | reset => exact .link rfl
  | sample v t => exact .monitor (.inl ⟨v, t, rfl⟩)
  | take => exact .monitor (.inr rfl)
  | _ => cases h

/-- Only steps are enabled (R233). -/
theorem step_of_enabled {s : State} {i : Instr} (h : enabled s i = true) : ∃ g, opKind i = .step g := by
  cases i with
  | injectUart C => exact ⟨_, rfl⟩
  | injectUsb C => exact ⟨_, rfl⟩
  | recv c k => exact ⟨_, rfl⟩
  | timeout c => exact ⟨_, rfl⟩
  | send c k => exact ⟨_, rfl⟩
  | usbConnect => exact ⟨_, rfl⟩
  | usbDisconnect => exact ⟨_, rfl⟩
  | reset => exact ⟨_, rfl⟩
  | sample v t => exact ⟨_, rfl⟩
  | take => exact ⟨_, rfl⟩
  | _ => cases h

/-- What R235 gives of two enabled steps of which the first is channel `c`'s: the clauses of notes/assumptions/9.md. -/
structure OrdersAgree (c : Chan) (i j : Instr) (a b ab ba : State) : Prop where
  clear : { ab with diag := [] } = { ba with diag := [] }
  records : ¬ (i = .timeout c ∧ ArrivesOn c j) → ∀ o, ab.recordsOf o = ba.recordsOf o
  enabledRecords : enabled a j = true → enabled b i = true → ∀ o, ab.recordsOf o = ba.recordsOf o
  same : (∀ c', opKind j ≠ .step (agentOf c')) → ¬ (i = .timeout c ∧ ArrivesOn c j) → ab = ba
  lost : i = .timeout c → ArrivesOn c j →
    ab.diag = ba.diag ++ [{ kind := .transportTimeout, origin := originOf c }]

theorem OrdersAgree.of_sameButOrder {c : Chan} {i j : Instr} {a b ab ba : State} (h : SameButOrder ab ba)
    (hsame : (∀ c', opKind j ≠ .step (agentOf c')) → ab = ba) (hlost : ¬ (i = .timeout c ∧ ArrivesOn c j)) :
    OrdersAgree c i j a b ab ba where
  clear := h.clear
  records := fun _ => h.records
  enabledRecords := fun _ _ => h.records
  same := fun hj _ => hsame hj
  lost := fun hi hj => absurd ⟨hi, hj⟩ hlost

theorem OrdersAgree.of_eq {c : Chan} {i j : Instr} {a b ab : State} (hlost : ¬ (i = .timeout c ∧ ArrivesOn c j)) :
    OrdersAgree c i j a b ab ab :=
  .of_sameButOrder (.refl ab) (fun _ => rfl) hlost

/-- A read that times out first records it; after bytes have arrived it has no move (R145). -/
theorem OrdersAgree.timeout_arrival {c : Chan} {s : State} {C : List Byte} (he : timeoutEnabled s c = true)
    (hup : s.sourceUp c = true) : OrdersAgree c (.timeout c) (arrival c C) (s.timeout c) (s.inject c C)
      ((s.timeout c).inject c C) ((s.inject c C).timeout c) := by
  obtain ⟨hst, hempty, hlink⟩ := timeoutEnabled_iff.mp he
  have hfirst : (s.timeout c).inject c C
      = (s.setPend c C).raise [.transportTimeout] (originOf c) := by
    rw [State.timeout_enabled he, State.inject_of_sourceUp C (by simpa using hup), State.pend_raise, hempty]
    cases c <;> rfl
  have hsecond : s.inject c C = s.setPend c C := by
    rw [State.inject_of_sourceUp C hup, hempty, List.nil_append]
  rw [hfirst, hsecond]
  by_cases hC : C = []
  · have hen : timeoutEnabled (s.setPend c C) c = true :=
      timeoutEnabled_iff.mpr ⟨by simpa using hst, by simpa using hC, by simpa using hlink⟩
    rw [State.timeout_enabled hen]
    exact .of_eq fun ⟨_, harr⟩ => (arrivesOn_arrival.mp harr).2 hC
  · have hdis : timeoutEnabled (s.setPend c C) c = false := by simp [timeoutEnabled, hC]
    rw [State.timeout_disabled hdis]
    have harr : ArrivesOn c (arrival c C) := arrivesOn_arrival.mpr ⟨rfl, hC⟩
    exact {
      clear := rfl
      records := fun h => absurd ⟨rfl, harr⟩ h
      enabledRecords := fun _ h => absurd (hdis.symm.trans h) Bool.false_ne_true
      same := fun _ h => absurd ⟨rfl, harr⟩ h
      lost := fun _ _ => rfl }

theorem not_arrivesOn_monitor {c : Chan} {i : Instr} (h : OnMonitor i) : ¬ ArrivesOn c i := by
  rcases h with ⟨v, t, rfl⟩ | rfl <;> exact id

theorem not_arrivesOn_channelStep {c c' : Chan} {i : Instr} (h : opKind i = .step (agentOf c')) : ¬ ArrivesOn c i := by
  rcases channelStep_cases h with ⟨k, rfl⟩ | rfl | ⟨k, rfl⟩ <;> exact id

/-- The first half of O60: by what the other step touches. -/
theorem ordersAgree {c : Chan} {i j : Instr} {s a ab b ba : State} (hi : opKind i = .step (agentOf c))
    (hen : enabled s i = true) (hen' : enabled s j = true) (hown : opKind j ≠ .step (agentOf c))
    (hlink : changesLink j = false) (ha : exec i s = .next a) (hab : exec j a = .next ab) (hb : exec j s = .next b)
    (hba : exec i b = .next ba) : OrdersAgree c i j a b ab ba := by
  have hlocal := localTo_of_channelStep hi
  cases role_of_step (step_of_enabled hen') c with
  | own h => exact absurd h hown
  | link h => exact absurd (hlink.symm.trans h) Bool.false_ne_true
  | monitor h =>
    obtain rfl := monitor_commute hlocal h ha hab hb hba
    exact .of_eq fun ⟨_, harr⟩ => not_arrivesOn_monitor h harr
  | other c' hne h =>
    have hcomm := (local_commute hne hlocal (localTo_of_channelStep h) ha hab hb hba).1
    exact .of_sameButOrder hcomm (fun hno => absurd h (hno c')) fun ⟨_, harr⟩ => not_arrivesOn_channelStep h harr
  | otherFed c' hne C h =>
    subst h
    have hcomm := (local_commute hne hlocal (localTo_arrival c' C) ha hab hb hba).2
    cases hb.symm.trans (exec_arrival c' C s)
    obtain rfl := hcomm (s.diag_inject c' C)
    exact .of_eq fun ⟨_, harr⟩ => hne (arrivesOn_arrival.mp harr).1
  | fed C h =>
    subst h
    rw [enabled_arrival] at hen'
    cases hb.symm.trans (exec_arrival c C s)
    cases hab.symm.trans (exec_arrival c C a)
    rcases channelStep_cases hi with ⟨k, rfl⟩ | rfl | ⟨k, rfl⟩
    · cases ha.symm.trans (exec_recv c k s)
      cases hba.symm.trans (exec_recv c k _)
      rw [recv_inject_comm C hen]
      exact .of_eq nofun
    · cases ha.symm.trans (exec_timeout c s)
      cases hba.symm.trans (exec_timeout c _)
      exact .timeout_arrival hen hen'
    · cases ha.symm.trans (exec_send c k s)
      cases hba.symm.trans (exec_send c k _)
      rw [send_inject_comm]
      exact .of_eq nofun

/-! ### What a channel emits is fixed by the steps that bear on it -/

/-- States that look the same to channel `c` and in which it has emitted the same. -/
structure SameOutput (c : Chan) (s s' : State) : Prop where
  view : SameView c s s'
  emitted : emitted s' c = emitted s c

namespace SameOutput

variable {c : Chan} {s s' s'' : State}

theorem refl (c : Chan) (s : State) : SameOutput c s s := ⟨.refl c s, rfl⟩

theorem symm (h : SameOutput c s s') : SameOutput c s' s :=
  ⟨⟨h.view.params.symm, h.view.usbUp.symm, h.view.ch.symm, h.view.pend.symm⟩, h.emitted.symm⟩

theorem trans (h : SameOutput c s s') (h' : SameOutput c s' s'') : SameOutput c s s'' :=
  ⟨⟨h'.view.params.trans h.view.params, h'.view.usbUp.trans h.view.usbUp, h'.view.ch.trans h.view.ch,
    h'.view.pend.trans h.view.pend⟩, h'.emitted.trans h.emitted⟩

/-- One change of the channel keeps them the same. -/
theorem change (h : SameOutput c s s') (x : Change) : SameOutput c (s.change c x) (s'.change c x) where
  view := ⟨by simp [h.view.params], by simp [h.view.usbUp], by simp, by simp⟩
  emitted := by
    have hem := h.emitted
    cases c with
    | h2s =>
      have huart : s'.uartOut = s.uartOut := List.singleton_injective hem
      exact congrArg (fun B => [B ++ x.out]) huart
    | s2h =>
      obtain ⟨hclosed, hcurrent⟩ := List.append_inj' hem rfl
      exact congrArg₂ (fun B C => B ++ [C ++ x.out]) hclosed (List.singleton_injective hcurrent)

/-- USB_CONNECT keeps them the same. -/
theorem connect (h : SameOutput c s s') : SameOutput c s.connect s'.connect := by
  cases hup : s.usbUp with
  | true => rwa [State.connect_of_up hup, State.connect_of_up (h.view.usbUp.trans hup)]
  | false =>
    rw [State.connect_of_down hup, State.connect_of_down (h.view.usbUp.trans hup)]
    obtain ⟨⟨hp, -, hch, hpend⟩, hem⟩ := h
    cases c <;> exact ⟨⟨hp, rfl, hch, hpend⟩, hem⟩

/-- USB_DISCONNECT keeps them the same. -/
theorem disconnect (h : SameOutput c s s') : SameOutput c s.disconnect s'.disconnect := by
  cases hup : s.usbUp with
  | false => rwa [State.disconnect_of_down hup, State.disconnect_of_down (h.view.usbUp.trans hup)]
  | true =>
    rw [State.disconnect_of_up hup, State.disconnect_of_up (h.view.usbUp.trans hup)]
    obtain ⟨⟨hp, -, hch, hpend⟩, hem⟩ := h
    cases c
    · exact ⟨⟨hp, rfl, congrArg Channel.drain hch, rfl⟩, hem⟩
    · exact ⟨⟨hp, rfl, congrArg Channel.restart hch, hpend⟩, congrArg (· ++ [[]]) hem⟩

/-- RESET keeps them the same. -/
theorem reset (h : SameOutput c s s') : SameOutput c s.toReset s'.toReset := by
  cases hup : s.usbUp with
  | false =>
    rw [State.toReset_of_down hup, State.toReset_of_down (h.view.usbUp.trans hup)]
    obtain ⟨⟨hp, -, -, -⟩, hem⟩ := h
    cases c <;> exact ⟨⟨hp, rfl, rfl, rfl⟩, hem⟩
  | true =>
    rw [State.toReset_of_up hup, State.toReset_of_up (h.view.usbUp.trans hup)]
    obtain ⟨⟨hp, -, -, -⟩, hem⟩ := h
    cases c
    · exact ⟨⟨hp, rfl, rfl, rfl⟩, hem⟩
    · exact ⟨⟨hp, rfl, rfl, rfl⟩, congrArg (· ++ [[]]) hem⟩

end SameOutput

/-- A change of another channel is not seen and emits nothing here. -/
theorem sameOutput_change_of_ne {c c' : Chan} (s : State) (x : Change) (h : c ≠ c') :
    SameOutput c s (s.change c' x) where
  view := sameView_change_of_ne s x h
  emitted := by
    cases c <;> cases c'
    · exact absurd rfl h
    · rfl
    · rfl
    · exact absurd rfl h

/-- An operation local to another channel. -/
theorem sameOutput_of_local_of_ne {c c' : Chan} {i : Instr} {s t : State} (hne : c ≠ c') (hi : LocalTo c' i)
    (h : exec i s = .next t) : SameOutput c s t := by
  obtain ⟨x, hx⟩ := hi s
  cases h.symm.trans (hx s (.refl c' s))
  exact sameOutput_change_of_ne s x hne

/-- An operation local to the channel. -/
theorem SameOutput.of_local {c : Chan} {i : Instr} {s s' t t' : State} (h : SameOutput c s s') (hi : LocalTo c i)
    (ht : exec i s = .next t) (ht' : exec i s' = .next t') : SameOutput c t t' := by
  obtain ⟨x, hx⟩ := hi s
  cases ht.symm.trans (hx s (.refl c s))
  cases ht'.symm.trans (hx s' h.view)
  exact h.change x

theorem SameOutput.of_link {c : Chan} {i : Instr} {s s' t t' : State} (h : SameOutput c s s')
    (hi : changesLink i = true) (ht : exec i s = .next t) (ht' : exec i s' = .next t') : SameOutput c t t' := by
  cases i with
  | usbConnect => cases ht; cases ht'; exact h.connect
  | usbDisconnect => cases ht; cases ht'; exact h.disconnect
  | reset => cases ht; cases ht'; exact h.reset
  | _ => cases hi

theorem eq_of_agentOf_eq {c c' : Chan} (h : agentOf c = agentOf c') : c = c' := by
  cases c <;> cases c' <;> simp [agentOf] at h ⊢

theorem bearsOn_arrival_of_ne {c c' : Chan} (C : List Byte) (h : c ≠ c') : bearsOn c (arrival c' C) = false := by
  cases c <;> cases c'
  · exact absurd rfl h
  · rfl
  · rfl
  · exact absurd rfl h

theorem bearsOn_channelStep_of_ne {c c' : Chan} {i : Instr} (h : c ≠ c') (hi : opKind i = .step (agentOf c')) :
    bearsOn c i = false := by
  have hne : agentOf c' ≠ agentOf c := fun hag => h (eq_of_agentOf_eq hag.symm)
  rcases channelStep_cases hi with ⟨k, rfl⟩ | rfl | ⟨k, rfl⟩ <;> simp [bearsOn, opKind, changesLink, hne]

theorem bearsOn_monitor {c : Chan} {i : Instr} (h : OnMonitor i) : bearsOn c i = false := by
  rcases h with ⟨v, t, rfl⟩ | rfl <;> cases c <;> rfl

/-- A step that bears on the channel does the same to states that are the same to it; any other step is not seen. -/
theorem SameOutput.step {c : Chan} {i : Instr} {s s' t : State} (h : SameOutput c s s')
    (hi : ∃ g, opKind i = .step g) (ht : exec i s = .next t) :
    if bearsOn c i then ∃ t', exec i s' = .next t' ∧ SameOutput c t t' else SameOutput c t s' := by
  obtain ⟨t', ht', -⟩ := exec_effect i s'
  cases role_of_step hi c with
  | own hk =>
    rw [if_pos (by simp [bearsOn, hk])]
    exact ⟨t', ht', h.of_local (localTo_of_channelStep hk) ht ht'⟩
  | fed C hC =>
    subst hC
    rw [if_pos (by cases c <;> rfl)]
    exact ⟨t', ht', h.of_local (localTo_arrival c C) ht ht'⟩
  | link hl =>
    rw [if_pos (by simp [bearsOn, hl])]
    exact ⟨t', ht', h.of_link hl ht ht'⟩
  | other c' hne hk =>
    rw [if_neg (by simp [bearsOn_channelStep_of_ne hne hk])]
    exact (sameOutput_of_local_of_ne hne (localTo_of_channelStep hk) ht).symm.trans h
  | otherFed c' hne C hC =>
    subst hC
    rw [if_neg (by simp [bearsOn_arrival_of_ne C hne])]
    exact (sameOutput_of_local_of_ne hne (localTo_arrival c' C) ht).symm.trans h
  | monitor hm =>
    rw [if_neg (by simp [bearsOn_monitor hm])]
    obtain ⟨f, hf, -, hview⟩ := onMonitor_effect hm
    cases ht.symm.trans (hf s)
    obtain ⟨hv, hem⟩ := hview s c
    exact (SameOutput.mk hv hem).symm.trans h

/-- A run of steps and the run of those that bear on the channel end the same for it. -/
theorem SameOutput.follow_filter {c : Chan} {is : List Instr} {s s' u : State} (h : SameOutput c s s')
    (hsteps : ∀ i ∈ is, ∃ g, opKind i = .step g) (hu : follow is s = .next u) :
    ∃ u', follow (is.filter (bearsOn c)) s' = .next u' ∧ SameOutput c u u' := by
  induction is generalizing s s' with
  | nil =>
    cases hu
    exact ⟨s', rfl, h⟩
  | cons i is ih =>
    obtain ⟨t, ht, -⟩ := exec_effect i s
    rw [follow_cons_of_next ht] at hu
    have hstep := h.step (hsteps i List.mem_cons_self) ht
    have hrest : ∀ j ∈ is, ∃ g, opKind j = .step g := fun j hj => hsteps j (List.mem_cons_of_mem i hj)
    cases hb : bearsOn c i with
    | true =>
      rw [if_pos hb] at hstep
      obtain ⟨t', ht', hsame⟩ := hstep
      rw [List.filter_cons_of_pos hb, follow_cons_of_next ht']
      exact ih hsame hrest hu
    | false =>
      rw [if_neg (by simp [hb])] at hstep
      rw [List.filter_cons_of_neg (by simp [hb])]
      exact ih hstep hrest hu

end Sys2Proof.Machine

namespace Sys2Proof.Proofs

open Sys2Proof Sys2Proof.Machine

/-- Settles O45: each operation is local to its part of the state, and an arrival on the channel itself adds only bytes
that neither a read of the first ones nor a send sees. -/
theorem stepsOfDifferentAgentsCommute : Obligations.StepsOfDifferentAgentsCommute := by
  intro i j s a ab b ba ha hab hb hba
  refine ⟨fun hi hj => ?_, fun hen hi hj => ?_, fun c hi hj => ?_⟩
  · have hcomm := (local_commute (c := .h2s) (c' := .s2h) nofun (localTo_of_channelStep hi)
      (localTo_of_channelStep hj) ha hab hb hba).1
    exact ⟨hcomm.clear, hcomm.records⟩
  · obtain ⟨c, hk⟩ : ∃ c, (∃ k, i = .recv c k) ∨ ∃ k, i = .send c k := by
      rcases hi with ⟨c, k, rfl⟩ | ⟨c, k, rfl⟩
      · exact ⟨c, .inl ⟨k, rfl⟩⟩
      · exact ⟨c, .inr ⟨k, rfl⟩⟩
    have hlocal : LocalTo c i := by
      rcases hk with ⟨k, rfl⟩ | ⟨k, rfl⟩
      · exact localTo_recv c k
      · exact localTo_send c k
    have harrival : ∀ c' C, j = arrival c' C → ab = ba := by
      rintro c' C rfl
      cases hb.symm.trans (exec_arrival c' C s)
      by_cases hne : c = c'
      · subst hne
        cases hab.symm.trans (exec_arrival c C a)
        rcases hk with ⟨k, rfl⟩ | ⟨k, rfl⟩
        · cases ha
          cases hba
          exact recv_inject_comm C hen
        · cases ha
          cases hba
          exact send_inject_comm s c k C
      · exact (local_commute hne hlocal (localTo_arrival c' C) ha hab hb hba).2 (s.diag_inject c' C)
    rcases hj with hv | rfl | ⟨C, rfl⟩ | ⟨C, rfl⟩
    · exact monitor_commute hlocal (.inl hv) ha hab hb hba
    · exact monitor_commute hlocal (.inr rfl) ha hab hb hba
    · exact harrival .s2h C rfl
    · exact harrival .h2s C rfl
  · subst hi
    have harrival : ∀ c' C, c ≠ c' → j = arrival c' C → ab = ba := by
      rintro c' C hne rfl
      cases hb.symm.trans (exec_arrival c' C s)
      exact (local_commute hne (localTo_timeout c) (localTo_arrival c' C) ha hab hb hba).2 (s.diag_inject c' C)
    rcases hj with hv | rfl | ⟨rfl, C, rfl⟩ | ⟨rfl, C, rfl⟩
    · exact monitor_commute (localTo_timeout c) (.inl hv) ha hab hb hba
    · exact monitor_commute (localTo_timeout c) (.inr rfl) ha hab hb hba
    · exact harrival .s2h C nofun rfl
    · exact harrival .h2s C nofun rfl

/-- Settles O60: the two orders by what the other step touches, the output by the run of the steps that bear on the
channel. -/
theorem channelStepsCommute : Obligations.ChannelStepsCommute := by
  refine ⟨?_, ?_⟩
  · intro c i j s a ab b ba hi hen hen' hown hlink ha hab hb hba
    obtain ⟨hclear, hrecords, henrec, hsame, hlost⟩ := ordersAgree hi hen hen' hown hlink ha hab hb hba
    have hblock := congrArg State.block hclear
    exact ⟨hblock, hclear, hrecords, henrec, hsame, hlost⟩
  · intro c is js s u v hsteps hfilter hu hv
    obtain ⟨u', hu', hsame⟩ :=
      (SameOutput.refl c s).follow_filter (fun i hi => hsteps i (List.mem_append_left js hi)) hu
    obtain ⟨v', hv', hsame'⟩ :=
      (SameOutput.refl c s).follow_filter (fun i hi => hsteps i (List.mem_append_right is hi)) hv
    rw [hfilter] at hu'
    cases hu'.symm.trans hv'
    obtain ⟨hview, hem⟩ := hsame'.trans hsame.symm
    exact ⟨hem, hview.ch, hview.pend⟩

end Sys2Proof.Proofs
end

section
/-! PROOFS. The pseudo-steps of R94 as runs of enabled reads and sends, that they end where nothing more moves, a part
of a frame that arrives on an idle channel, and O44 and O48 to O51 (spec/30_encoding.md section 5, spec/44_dispatch.md;
notes/assumptions/7.md). -/

namespace Sys2Proof.Machine

open Sys2Proof

/-! ### Runs of a channel's reads and sends -/

/-- Some run of enabled RECVs and SENDs of channel `c` leads from `s` to `t`. -/
def Runs (c : Chan) (s t : State) : Prop :=
  ∃ is : List Instr, (∀ j ∈ is, (∃ k, j = .recv c k) ∨ ∃ k, j = .send c k) ∧ AllEnabled is s ∧ follow is s = .next t

/-- A run and one more enabled operation. -/
theorem follow_snoc {is : List Instr} {j : Instr} {s t u : State} (hen : AllEnabled is s) (hrun : follow is s = .next t)
    (hj : enabled t j = true) (hu : exec j t = .next u) :
    AllEnabled (is ++ [j]) s ∧ follow (is ++ [j]) s = .next u := by
  induction is generalizing s with
  | nil =>
    cases hrun
    exact ⟨⟨hj, fun _ _ => trivial⟩, by rw [List.nil_append, follow_cons_of_next hu, follow]⟩
  | cons i is ih =>
    obtain ⟨v, hv, -⟩ := exec_effect i s
    rw [follow_cons_of_next hv] at hrun
    obtain ⟨hrest, hlast⟩ := ih (hen.2 v hv) hrun
    refine ⟨⟨hen.1, fun w hw => ?_⟩, by rw [List.cons_append, follow_cons_of_next hv, hlast]⟩
    cases hv.symm.trans hw
    exact hrest

theorem Runs.refl (c : Chan) (s : State) : Runs c s s := ⟨[], nofun, trivial, rfl⟩

theorem Runs.snoc {c : Chan} {s t u : State} {j : Instr} (h : Runs c s t)
    (hj : (∃ k, j = .recv c k) ∨ ∃ k, j = .send c k) (hen : enabled t j = true) (hu : exec j t = .next u) :
    Runs c s u := by
  obtain ⟨is, his, hall, hrun⟩ := h
  obtain ⟨hall', hrun'⟩ := follow_snoc hall hrun hen hu
  refine ⟨is ++ [j], fun i hi => ?_, hall', hrun'⟩
  rcases List.mem_append.mp hi with hi | hi
  · exact his i hi
  · rw [List.mem_singleton.mp hi]
    exact hj

/-- A read that is not enabled adds nothing to the run. -/
theorem Runs.recv {c : Chan} {s t : State} (h : Runs c s t) (k : Nat) : Runs c s (t.recv c k) := by
  cases hk : recvEnabled t c k with
  | false => rwa [State.recv_disabled hk]
  | true => exact h.snoc (.inl ⟨k, rfl⟩) hk (exec_recv c k t)

theorem Runs.send {c : Chan} {s t : State} (h : Runs c s t) (k : Nat) : Runs c s (t.send c k) := by
  cases hk : sendEnabled t c k with
  | false => rwa [State.send_disabled hk]
  | true => exact h.snoc (.inr ⟨k, rfl⟩) hk (exec_send c k t)

theorem runs_relay (c : Chan) (s : State) : Runs c s (s.relay c) :=
  State.relay_keeps (Q := Runs c s) (fun _ k h => h.recv k) (fun _ k h => h.send k) (.refl c s)

/-! ### Where nothing of a channel moves -/

/-- Channel `c` can neither read nor send: it has read what there is, and what it forwards has no sink. -/
structure Idle (c : Chan) (s : State) : Prop where
  read : (s.ch c).st.isWait = true → s.pend c = []
  sent : (s.ch c).st = .forwarding → s.sinkUp c = false

theorem Idle.recvEnabled {c : Chan} {s : State} (h : Idle c s) (k : Nat) : recvEnabled s c k = false := by
  refine Bool.eq_false_iff.mpr fun hk => ?_
  obtain ⟨hst, hpos, hle, -⟩ := recvEnabled_iff.mp hk
  rw [h.read (ChSt.isWait_iff.mpr hst), List.length_nil] at hle
  omega

theorem Idle.sendEnabled {c : Chan} {s : State} (h : Idle c s) (k : Nat) : sendEnabled s c k = false := by
  refine Bool.eq_false_iff.mpr fun hk => ?_
  obtain ⟨hst, -, -, hup⟩ := sendEnabled_iff.mp hk
  exact Bool.false_ne_true ((h.sent hst).symm.trans ((s.sinkUp_iff c).mpr hup))

/-- At a rest state (R236) both channels are idle. -/
theorem Rest.idle {s : State} (h : Rest s) (c : Chan) : Idle c s := by
  obtain ⟨hpend, hpend', hwait, hrest⟩ := h
  cases c with
  | h2s =>
    refine ⟨fun _ => hpend, fun hst => ?_⟩
    change s.h2s.st = .forwarding at hst
    simp [hst, ChSt.isWait] at hwait
  | s2h =>
    refine ⟨fun _ => hpend', fun hst => ?_⟩
    change s.s2h.st = .forwarding at hst
    rcases hrest with hwait' | hdown
    · simp [hst, ChSt.isWait] at hwait'
    · exact hdown

/-! ### DRAIN reads all it can -/

/-- A waiting channel that meets R40 has room. -/
theorem ChannelInv.room {p : Params} {ch : Channel} (h : ChannelInv p ch) (hst : ch.st.isWait = true) :
    ch.buf.length < p.cap := by
  rcases ChSt.isWait_iff.mp hst with hst | hst
  · exact (h.header.mp hst).2
  · exact (h.body.mp hst).2

/-- `RECV c *` takes at least one byte wherever the channel waits and its source has bytes. -/
theorem recvAll_enabled {c : Chan} {s : State} (hinv : ChannelInv s.params (s.ch c)) (hup : s.sourceUp c = true)
    (hst : (s.ch c).st.isWait = true) (hpend : s.pend c ≠ []) : recvEnabled s c (recvAllCount s c) = true := by
  have hroom := hinv.room hst
  have hlen := List.length_pos_iff.mpr hpend
  have hmps := s.params.usbMps_pos
  refine recvEnabled_iff.mpr ⟨ChSt.isWait_iff.mp hst, ?_, ?_, fun hc => ⟨(s.sourceUp_iff c).mp hup hc, ?_⟩⟩
  · unfold recvAllCount State.freeSpace
    cases c <;> simp only [le_min_iff] <;> omega
  · rw [← cap_eq]
    unfold recvAllCount State.freeSpace
    cases c
    · exact min_le_left _ _
    · exact le_rfl
  · subst hc
    exact min_le_right _ _

/-- With fuel for every byte of the source, DRAIN ends with the source empty or the channel no longer waiting. -/
theorem drainLoop_reads {c : Chan} {n : Nat} {s : State} (hinv : ChannelInv s.params (s.ch c))
    (hup : s.sourceUp c = true) (hn : (s.pend c).length ≤ n) :
    ((drainLoop c n s).ch c).st.isWait = true → (drainLoop c n s).pend c = [] := by
  induction n generalizing s with
  | zero => exact fun _ => List.length_eq_zero_iff.mp (Nat.le_zero.mp hn)
  | succ n ih =>
    unfold drainLoop
    split
    case isTrue hgo =>
      obtain ⟨hst, hpend⟩ : (s.ch c).st.isWait = true ∧ s.pend c ≠ [] := by simpa using hgo
      have hen := recvAll_enabled hinv hup hst hpend
      have hpos := (recvEnabled_bounds hen).1
      refine ih (s := s.recvAll c) ?_ ?_ ?_
      · rw [State.recvAll, State.params_recv]
        exact channelInv_ch_recv hinv _
      · rw [State.recvAll, State.recv_eq_change hen, State.sourceUp_change, hup]
      · rw [State.recvAll, State.pend_recv hen, List.length_drop]
        omega
    case isFalse hstop =>
      intro hst
      simpa [hst] using hstop

theorem State.drain_reads {c : Chan} {s : State} (hinv : ChannelInv s.params (s.ch c)) (hup : s.sourceUp c = true) :
    ((s.drain c).ch c).st.isWait = true → (s.drain c).pend c = [] :=
  drainLoop_reads hinv hup le_rfl

/-- With an empty source DRAIN has no move. -/
theorem State.drain_of_empty {c : Chan} {s : State} (h : s.pend c = []) : s.drain c = s := by
  rw [drain, h]
  rfl

/-- A channel that does not wait does not drain. -/
theorem State.drain_of_not_wait {c : Chan} {s : State} (h : (s.ch c).st.isWait = false) : s.drain c = s := by
  rw [drain]
  cases (s.pend c).length with
  | zero => rfl
  | succ n => simp [drainLoop, h]

/-! ### RELAY ends idle -/

/-- The bytes a channel still has to relay: its buffer's and its source's. -/
def State.bytes (s : State) (c : Chan) : Nat := (s.ch c).buf.length + (s.pend c).length

theorem resolveChannel_length_le (p : Params) (ch : Channel) :
    (resolveChannel p ch).1.buf.length ≤ ch.buf.length := by
  obtain ⟨n, ch', hbuf, hset⟩ := resolveChannel_settled p ch
  rw [hset.buf_eq, hbuf, List.length_drop]
  omega

theorem State.bytes_recv_le (s : State) (c : Chan) (k : Nat) : (s.recv c k).bytes c ≤ s.bytes c := by
  cases hk : recvEnabled s c k with
  | false => rw [recv_disabled hk]
  | true =>
    have hle := resolveChannel_length_le s.params (s.filled c k)
    rw [List.length_append, List.length_take] at hle
    rw [bytes, bytes, ch_recv hk, pend_recv hk, List.length_drop]
    omega

/-- What RELAY keeps of the channel and of the link, and that it adds no byte. -/
structure Relaying (c : Chan) (s t : State) : Prop where
  params : t.params = s.params
  inv : ChannelInv s.params (t.ch c)
  usbUp : t.usbUp = s.usbUp
  bytes : t.bytes c ≤ s.bytes c

theorem Relaying.sourceUp {c : Chan} {s t : State} (h : Relaying c s t) : t.sourceUp c = s.sourceUp c := by
  cases c
  · exact h.usbUp
  · rfl

theorem State.drain_relaying {c : Chan} {s : State} (hinv : ChannelInv s.params (s.ch c)) :
    Relaying c s (s.drain c) := by
  refine drain_keeps (Q := Relaying c s) (fun t k h => ?_) ⟨rfl, hinv, rfl, le_rfl⟩
  exact ⟨(t.params_recv c k).trans h.params, h.params ▸ channelInv_ch_recv (h.params.symm ▸ h.inv) k,
    (t.usbUp_recv c k).trans h.usbUp, (t.bytes_recv_le c k).trans h.bytes⟩

/-- FLUSH of a forwarding channel whose sink is up sends the whole rest of the frame and completes it. -/
theorem State.flush_relaying {c : Chan} {s : State} (hinv : ChannelInv s.params (s.ch c))
    (hst : (s.ch c).st = .forwarding) (hup : s.sinkUp c = true) :
    Relaying c s (s.flush c) ∧ (s.flush c).bytes c < s.bytes c := by
  obtain ⟨L, hv, hlen⟩ := hinv.frame hst
  have hfits := (Codec.classify_good_bound hv).1
  have hwr := hinv.fwd_ranges hst
  have hen : sendEnabled s c ((s.ch c).fwdLen - (s.ch c).wr) = true :=
    sendEnabled_iff.mpr ⟨hst, by omega, le_rfl, (s.sinkUp_iff c).mp hup⟩
  have hlast : s.flush c = (s.sent c ((s.ch c).fwdLen - (s.ch c).wr)).complete c :=
    send_last hen (by omega)
  have hle := resolveChannel_length_le s.params (s.consumed c)
  rw [List.length_drop] at hle
  have hbytes : (s.flush c).bytes c < s.bytes c := by
    rw [hlast, sent_complete_eq_change, bytes, ch_change, pend_change, bytes]
    dsimp only
    omega
  exact ⟨⟨params_send s c _, channelInv_ch_send hinv _, usbUp_send s c _, hbytes.le⟩, hbytes⟩

theorem relayLoop_of_not_forwarding {c : Chan} {s : State} (n : Nat) (h : (s.ch c).st ≠ .forwarding) :
    relayLoop c n s = s := by
  cases n with
  | zero => rfl
  | succ n => rw [relayLoop, if_neg h]

/-- Where the sink is down an accepted frame waits (R147). -/
theorem relayLoop_of_sinkDown {c : Chan} {s : State} (n : Nat) (hst : (s.ch c).st = .forwarding)
    (hdown : s.sinkUp c = false) : relayLoop c n s = s := by
  have hflush : s.flush c = s := State.send_disabled (by simp [sendEnabled, hdown])
  have hdrain : s.drain c = s := State.drain_of_not_wait (by rw [hst]; rfl)
  induction n with
  | zero => rfl
  | succ n ih => rw [relayLoop, if_pos hst, hflush, hdrain, ih]

/-- With fuel for every byte the channel has, RELAY ends idle. -/
theorem relayLoop_idle {c : Chan} {n : Nat} {s : State} (hinv : ChannelInv s.params (s.ch c))
    (hup : s.sourceUp c = true) (hread : (s.ch c).st.isWait = true → s.pend c = []) (hn : s.bytes c ≤ n) :
    Idle c (relayLoop c n s) := by
  induction n generalizing s with
  | zero =>
    refine ⟨hread, fun hst => ?_⟩
    obtain ⟨L, hv, -⟩ := hinv.frame hst
    have hfits := (Codec.classify_good_bound hv).1
    rw [State.bytes] at hn
    omega
  | succ n ih =>
    by_cases hst : (s.ch c).st = .forwarding
    · cases hsink : s.sinkUp c with
      | false =>
        rw [relayLoop_of_sinkDown _ hst hsink]
        exact ⟨hread, fun _ => hsink⟩
      | true =>
        obtain ⟨hflush, hless⟩ := State.flush_relaying hinv hst hsink
        have hinv' : ChannelInv (s.flush c).params ((s.flush c).ch c) := hflush.params ▸ hflush.inv
        have hdrain := State.drain_relaying hinv'
        have hup' := hflush.sourceUp.trans hup
        rw [relayLoop, if_pos hst]
        exact ih (hdrain.params ▸ hdrain.inv) (hdrain.sourceUp.trans hup') (State.drain_reads hinv' hup')
          (Nat.le_of_lt_succ (hdrain.bytes.trans_lt (hless.trans_le hn)))
    · rw [relayLoop_of_not_forwarding _ hst]
      exact ⟨hread, fun h => absurd h hst⟩

theorem State.relay_idle {c : Chan} {s : State} (hinv : ChannelInv s.params (s.ch c)) (hup : s.sourceUp c = true) :
    Idle c (s.relay c) := by
  have hdrain := drain_relaying hinv
  exact relayLoop_idle (hdrain.params ▸ hdrain.inv) (hdrain.sourceUp.trans hup) (drain_reads hinv hup) hdrain.bytes

/-! ### Bytes that arrive on a channel -/

theorem State.deliver_of_up {s : State} {c : Chan} (F : List Byte) (h : s.sourceUp c = true) :
    s.deliver c F = (s.setPend c (s.pend c ++ F)).relay c := by
  rw [deliver, if_pos h, inject_of_sourceUp F h]

/-- Nothing arrives where the source's link is down (R142). -/
theorem State.deliver_of_down {s : State} {c : Chan} (F : List Byte) (h : s.sourceUp c = false) :
    s.deliver c F = s := by
  simp [deliver, h]

/-- The rows of the packet-type map: bytes that arrive on a channel (R81, R89). -/
def IsRow (c : Chan) (i : Instr) (F : List Byte) : Prop :=
  (i = .sync c ∧ F = [0xEF, 0x01]) ∨ (∃ a P, i = .cmd c a P ∧ F = Codec.encodeFrame a 0x01 P)
    ∨ (∃ a P, i = .data c a P ∧ F = Codec.encodeFrame a 0x02 P)
    ∨ (∃ a P, i = .ack c a P ∧ F = Codec.encodeFrame a 0x07 P)
    ∨ (∃ a P, i = .eod c a P ∧ F = Codec.encodeFrame a 0x08 P)
    ∨ ∃ t a P, i = .typeOther c t a P ∧ F = Codec.encodeFrame a t P

theorem IsRow.exec {c : Chan} {i : Instr} {F : List Byte} (h : IsRow c i F) (s : State) :
    exec i s = .next (s.deliver c F) := by
  rcases h with ⟨rfl, rfl⟩ | ⟨a, P, rfl, rfl⟩ | ⟨a, P, rfl, rfl⟩ | ⟨a, P, rfl, rfl⟩ | ⟨a, P, rfl, rfl⟩
    | ⟨t, a, P, rfl, rfl⟩ <;> rfl

/-! ### A part of a frame on an idle channel -/

/-- RESOLVE reads of the channel its buffer alone: every return writes the other registers. -/
theorem resolveChannel_congr_buf (p : Params) {ch ch' : Channel} (h : ch'.buf = ch.buf) :
    resolveChannel p ch' = resolveChannel p ch := by
  revert ch'
  refine resolveChannel_induction (Q := fun ch r => ∀ {ch' : Channel}, ch'.buf = ch.buf → resolveChannel p ch' = r)
    ?_ ?_ ch
  · intro ch x hs ch' h
    cases hs with
    | header hv hroom =>
      rw [resolveChannel_done (Settled.header (h ▸ hv) (h ▸ hroom)).resolveOnce, Channel.waitIn, Channel.waitIn, h]
    | body i hv hroom =>
      rw [resolveChannel_done (Settled.body i (h ▸ hv) (h ▸ hroom)).resolveOnce, Channel.waitIn, Channel.waitIn, h]
    | good i L hv => rw [resolveChannel_done (Settled.good i L (h ▸ hv)).resolveOnce, Channel.accept, Channel.accept, h]
  · intro ch k n r hb ih ch' h
    have hb' : FaultBranch p ch'.buf k n := h ▸ hb
    rw [resolveChannel_again hb'.resolveOnce hb', ih (by rw [errorDrop_buf, errorDrop_buf, h])]

/-- A waiting channel that holds `B`. -/
def holding (B : List Byte) : Channel where
  buf := B
  st := .waitHeader
  fwdOff := 0
  fwdLen := 0
  wr := 0

/-- What RESOLVE makes of the buffer `B`. -/
def resolved (p : Params) (B : List Byte) : Channel := (resolveChannel p (holding B)).1

/-- On the first bytes of a frame RESOLVE raises nothing and drops nothing (R117, R118). -/
theorem resolveChannel_frame_prefix {p : Params} {ch : Channel} {P : List Byte} (a : Addr) (t : Byte)
    (hP : P.length ≤ p.maxPayload) (hpre : ch.buf <+: Codec.encodeFrame a t P) :
    resolveChannel p ch = (resolved p ch.buf, []) ∧ (resolved p ch.buf).buf = ch.buf := by
  obtain ⟨n, hle, -, hfaults, hbuf, -⟩ :=
    resolveChannel_eatsGarbage (G := []) a t hP ch (by simp [MarkerAt]) (by simpa using hpre)
  obtain rfl : n = 0 := Nat.le_zero.mp hle
  have hsame : resolved p ch.buf = (resolveChannel p ch).1 :=
    congrArg Prod.fst (resolveChannel_congr_buf p rfl)
  exact ⟨Prod.ext hsame.symm hfaults, by rw [hsame, hbuf, List.drop_zero]⟩

/-- Before its last byte a frame is not accepted (R117). -/
theorem resolved_isWait_of_short {p : Params} {B P : List Byte} (a : Addr) (t : Byte) (hP : P.length ≤ p.maxPayload)
    (hpre : B <+: Codec.encodeFrame a t P) (hlt : B.length < 11 + P.length) : (resolved p B).st.isWait = true := by
  obtain ⟨n, ch, hch, hset⟩ := resolveChannel_settled p (holding B)
  have hbuf := (resolveChannel_frame_prefix (ch := holding B) a t hP hpre).2
  rw [← resolved] at hset
  have hchbuf : ch.buf = B := hset.buf_eq.symm.trans hbuf
  generalize resolved p B = x at hset
  cases hset with
  | header => rfl
  | body => rfl
  | good i L hv =>
    rw [hchbuf] at hv
    have hneed := Codec.decode_of_truncated
      (Codec.classify_encodeFrame a t hP (hP.trans p.maxPayload_le)) hpre (by omega)
    rw [Codec.decode_of_good hv] at hneed
    cases hneed

/-- The state in which an idle channel has read the first `n` bytes of `F`. -/
def State.reading (s : State) (c : Chan) (F : List Byte) (n : Nat) : State :=
  (s.setPend c (F.drop n)).setCh c (resolved s.params (F.take n))

/-- A read of more bytes of the frame. -/
theorem State.reading_recv {s : State} {c : Chan} {F P : List Byte} {n k : Nat} (a : Addr) (t : Byte)
    (hP : P.length ≤ s.params.maxPayload) (hpre : F <+: Codec.encodeFrame a t P)
    (hk : recvEnabled (s.reading c F n) c k = true) : (s.reading c F n).recv c k = s.reading c F (n + k) := by
  have hn : F.take n <+: Codec.encodeFrame a t P := (List.take_prefix n F).trans hpre
  have hbuf := (resolveChannel_frame_prefix (p := s.params) (ch := holding (F.take n)) a t hP hn).2
  have hfilled : ((s.reading c F n).filled c k).buf = F.take (n + k) := by
    simp only [reading, ch_setCh, pend_setCh, pend_setPend]
    rw [show (resolved s.params (F.take n)).buf = F.take n from hbuf, ← List.take_add]
  have hres := (resolveChannel_frame_prefix (p := s.params) (ch := (s.reading c F n).filled c k) a t hP
    (hfilled ▸ (List.take_prefix (n + k) F).trans hpre)).1
  have hparams : (s.reading c F n).params = s.params := by simp [reading]
  rw [recv_eq_change hk, hparams, hres, hfilled]
  cases c <;> simp [reading, change, setCh, setPend, emit, pend]

/-- DRAIN reads all of a frame, or a part of it, that arrives on an idle channel. -/
theorem State.drain_frame_prefix {s : State} {c : Chan} {F P : List Byte} (a : Addr) (t : Byte)
    (hP : P.length ≤ s.params.maxPayload) (hpre : F <+: Codec.encodeFrame a t P) (hup : s.sourceUp c = true)
    (hch : s.ch c = Channel.reset) (hpend : s.pend c = []) :
    (s.setPend c F).drain c = s.setCh c (resolved s.params F) := by
  have hempty : s.setPend c [] = s := by rw [← hpend, setPend_pend]
  have hstart : s.setPend c F = s.reading c F 0 := by
    rw [reading, List.drop_zero, List.take_zero, resolved, show holding [] = Channel.reset from rfl,
      resolveChannel_done (resolveOnce_reset _), ← hch, setPend_setCh, setCh_ch]
  obtain ⟨n, hn⟩ : ∃ n, (s.setPend c F).drain c = s.reading c F n := by
    refine drain_keeps (Q := fun u => ∃ n, u = s.reading c F n) ?_ ⟨0, hstart⟩
    rintro u k ⟨n, rfl⟩
    cases hk : Machine.recvEnabled (s.reading c F n) c k with
    | false => exact ⟨n, recv_disabled hk⟩
    | true => exact ⟨n + k, reading_recv a t hP hpre hk⟩
  have hreads := drain_reads (c := c) (s := s.setPend c F) (by simpa [hch] using channelInv_reset s.params)
    (by simpa using hup)
  rw [hn] at hreads ⊢
  have hall : F.length ≤ n := by
    by_contra hlt
    have hrest : (s.reading c F n).pend c = F.drop n := by simp [reading]
    have hwait : ((s.reading c F n).ch c).st.isWait = true := by
      rw [reading, ch_setCh]
      refine resolved_isWait_of_short a t hP ((List.take_prefix n F).trans hpre) ?_
      have hlen := hpre.length_le
      rw [Codec.encodeFrame_length] at hlen
      rw [List.length_take]
      omega
    have hnil := hreads hwait
    rw [hrest, List.drop_eq_nil_iff] at hnil
    exact hlt hnil
  rw [reading, List.drop_of_length_le hall, List.take_of_length_le hall, hempty]

/-- The channel that has accepted a frame which came alone. -/
theorem resolved_encodeFrame {p : Params} {P : List Byte} (a : Addr) (t : Byte) (hP : P.length ≤ p.maxPayload) :
    resolved p (Codec.encodeFrame a t P) = acceptedAfter [] (Codec.encodeFrame a t P) 0 := by
  have hv := Codec.classify_encodeFrame a t hP (hP.trans p.maxPayload_le)
  rw [resolved, resolveChannel_done (Settled.good 0 (P.length + 2) hv).resolveOnce, Channel.accept, acceptedAfter,
    Codec.encodeFrame_length, show 9 + (P.length + 2) = 11 + P.length by omega]
  rfl

/-- The channel that holds the bare marker. -/
theorem resolved_marker (p : Params) : resolved p [Codec.syncHi, Codec.syncLo]
    = { buf := [0xEF, 0x01], st := .waitBody, fwdOff := 0, fwdLen := 0, wr := 0 } := by
  have hv : Codec.classify p.maxPayload [Codec.syncHi, Codec.syncLo] = .needBody 0 :=
    Codec.classify_eq_needBody_of_header rfl (by decide)
  have hroom : [Codec.syncHi, Codec.syncLo].length ≠ p.cap := by
    simp [cap_eq]
  rw [resolved, resolveChannel_done (Settled.body 0 hv hroom).resolveOnce]
  rfl

/-- The bare marker begins every frame. -/
theorem marker_prefix_encodeFrame (a : Addr) (t : Byte) (P : List Byte) :
    [Codec.syncHi, Codec.syncLo] <+: Codec.encodeFrame a t P := ⟨(Codec.encodeFrame a t P).drop 2, rfl⟩

/-- The bare marker on an idle channel is held (R81). -/
theorem State.deliver_marker {s : State} {c : Chan} (hup : s.sourceUp c = true) (hch : s.ch c = Channel.reset)
    (hpend : s.pend c = []) : s.deliver c [Codec.syncHi, Codec.syncLo]
      = s.setCh c { buf := [0xEF, 0x01], st := .waitBody, fwdOff := 0, fwdLen := 0, wr := 0 } := by
  have hdrain := drain_frame_prefix (P := []) 0 0 (Nat.zero_le _) (marker_prefix_encodeFrame 0 0 []) hup hch hpend
  rw [resolved_marker] at hdrain
  rw [deliver_of_up _ hup, hpend, List.nil_append, relay, hdrain]
  exact relayLoop_of_not_forwarding _ (by simp)

/-- A legal frame on an idle channel whose sink is down is held (R147). -/
theorem State.deliver_frame_held {s : State} {c : Chan} {P : List Byte} (a : Addr) (t : Byte)
    (hP : P.length ≤ s.params.maxPayload) (hup : s.sourceUp c = true) (hdown : s.sinkUp c = false)
    (hch : s.ch c = Channel.reset) (hpend : s.pend c = []) :
    s.deliver c (Codec.encodeFrame a t P) = s.setCh c (acceptedAfter [] (Codec.encodeFrame a t P) 0) := by
  have hdrain := drain_frame_prefix a t hP List.prefix_rfl hup hch hpend
  rw [resolved_encodeFrame a t hP] at hdrain
  rw [deliver_of_up _ hup, hpend, List.nil_append, relay, hdrain]
  exact relayLoop_of_sinkDown _ (by simp [acceptedAfter]) (by simpa using hdown)

/-- A legal frame on an idle channel whose links are up is relayed (R89). -/
theorem State.deliver_frame {s : State} {c : Chan} {P : List Byte} (a : Addr) (t : Byte)
    (hP : P.length ≤ s.params.maxPayload) (hup : s.sourceUp c = true) (hsink : s.sinkUp c = true)
    (hch : s.ch c = Channel.reset) (hpend : s.pend c = []) :
    s.deliver c (Codec.encodeFrame a t P) = s.emit c (Codec.encodeFrame a t P) := by
  have hlen := Codec.encodeFrame_length a t P
  have hdrain := drain_frame_prefix a t hP List.prefix_rfl hup hch hpend
  rw [resolved_encodeFrame a t hP] at hdrain
  have hflush : (s.setCh c (acceptedAfter [] (Codec.encodeFrame a t P) 0)).flush c
      = s.emit c (Codec.encodeFrame a t P) := by
    have hsend := exec_send_whole (s.ch_setCh c (acceptedAfter [] (Codec.encodeFrame a t P) 0)) (by omega)
      (by simpa using hsink)
    rw [exec_send] at hsend
    rw [flush, ch_setCh]
    refine (Host.Outcome.next.inj hsend).trans ?_
    rw [← hch, ← emit_setCh, setCh_setCh, emit_setCh, setCh_ch]
  obtain ⟨n, hn⟩ : ∃ n, (s.ch c).buf.length + (Codec.encodeFrame a t P).length = n + 1 :=
    ⟨(s.ch c).buf.length + (10 + P.length), by omega⟩
  rw [deliver_of_up _ hup, hpend, List.nil_append, relay, hdrain, ch_setPend, pend_setPend, hn, relayLoop,
    if_pos (by simp [acceptedAfter]), hflush, drain_of_empty (by simpa using hpend)]
  exact relayLoop_of_not_forwarding _ (by simp [hch, Channel.reset])

end Sys2Proof.Machine

namespace Sys2Proof.Proofs

open Sys2Proof Sys2Proof.Machine

/-- Settles O44: at rest both channels are idle. -/
theorem nothingMovesAtRest : Obligations.NothingMovesAtRest := by
  intro c k s hrest
  have hrecv := (hrest.idle c).recvEnabled k
  have hsend := (hrest.idle c).sendEnabled k
  exact ⟨hrecv, hsend, by rw [exec_recv, State.recv_disabled hrecv], by rw [exec_send, State.send_disabled hsend]⟩

/-- Settles O50: RELAY is a run of enabled reads and sends, and it ends idle. -/
theorem frameRowsRunTheChannelToRest : Obligations.FrameRowsRunTheChannelToRest := by
  intro c i F s hrow hlink hinv
  have hup : s.sourceUp c = true := (s.sourceUp_iff c).mpr hlink
  obtain ⟨is, his, hall, hrun⟩ := runs_relay c (s.setPend c (s.pend c ++ F))
  have hidle : Idle c ((s.setPend c (s.pend c ++ F)).relay c) :=
    State.relay_idle (by simpa using (relayInv_iff s).mp hinv c) (by simpa using hup)
  exact ⟨is, _, by rw [IsRow.exec hrow, State.deliver_of_up F hup], his, hall, hrun,
    fun k => ⟨hidle.recvEnabled k, hidle.sendEnabled k⟩⟩

/-- Settles O48: both links are up, and the five rows are one delivery each. -/
theorem legalFramesAreRelayedUnchanged : Obligations.LegalFramesAreRelayedUnchanged := by
  intro c a P s husb hch hpend hP
  have hrow : ∀ i t, IsRow c i (Codec.encodeFrame a t P) → exec i s = .next (s.emit c (Codec.encodeFrame a t P)) := by
    intro i t hi
    rw [hi.exec s, State.deliver_frame a t hP ((s.sourceUp_iff c).mpr fun _ => husb)
      ((s.sinkUp_iff c).mpr fun _ => husb) hch hpend]
  exact ⟨hrow _ 0x01 (by simp [IsRow]), hrow _ 0x02 (by simp [IsRow]), hrow _ 0x07 (by simp [IsRow]),
    hrow _ 0x08 (by simp [IsRow]), fun t => hrow _ t (by simp [IsRow])⟩

/-- Settles O49: the marker is read and the channel waits for the rest of the frame. -/
theorem bareMarkerOpensACandidate : Obligations.BareMarkerOpensACandidate := by
  intro c s husb hch hpend
  rw [IsRow.exec (.inl ⟨rfl, rfl⟩) s]
  exact congrArg _ (State.deliver_marker ((s.sourceUp_iff c).mpr fun _ => husb) hch hpend)

/-- Settles O51: on H2S nothing arrives, on S2H the source is up and the sink is down. -/
theorem framesWhileUsbIsDown : Obligations.FramesWhileUsbIsDown := by
  intro a P s husb
  have hsource : s.sourceUp .h2s = false := husb
  have hsink : s.sinkUp .s2h = false := husb
  have hnone : ∀ i F, IsRow .h2s i F → exec i s = .next s := fun i F hi => by
    rw [hi.exec s, State.deliver_of_down F hsource]
  have hframe : ∀ i t, IsRow .h2s i (Codec.encodeFrame a t P) → exec i s = .next s := fun i t => hnone i _
  refine ⟨⟨hframe _ 0x01 (by simp [IsRow]), hframe _ 0x02 (by simp [IsRow]), hframe _ 0x07 (by simp [IsRow]),
    hframe _ 0x08 (by simp [IsRow]), fun t => hframe _ t (by simp [IsRow]), hnone _ _ (.inl ⟨rfl, rfl⟩)⟩, ?_⟩
  intro hch hpend held
  refine ⟨fun hP => ?_, ?_⟩
  · have hrow : ∀ i t, IsRow .s2h i (Codec.encodeFrame a t P) → exec i s = .next (held (Codec.encodeFrame a t P)) := by
      intro i t hi
      have hheld : s.setCh .s2h (acceptedAfter [] (Codec.encodeFrame a t P) 0) = held (Codec.encodeFrame a t P) := by
        rw [acceptedAfter, Codec.encodeFrame_length]
        rfl
      rw [hi.exec s, State.deliver_frame_held a t hP rfl hsink hch hpend, hheld]
    exact ⟨hrow _ 0x01 (by simp [IsRow]), hrow _ 0x02 (by simp [IsRow]), hrow _ 0x07 (by simp [IsRow]),
      hrow _ 0x08 (by simp [IsRow]), fun t => hrow _ t (by simp [IsRow])⟩
  · rw [IsRow.exec (.inl ⟨rfl, rfl⟩) s]
    exact congrArg _ (State.deliver_marker rfl hch hpend)

end Sys2Proof.Proofs
end

section
/-! PROOFS. The sends of one frame in any chunks, and O18 (spec/41_transport.md R146). -/

namespace Sys2Proof.Machine

open Sys2Proof

/-- An emission before a change is part of it. -/
theorem State.change_emit (s : State) (c : Chan) (C : List Byte) (x : Change) :
    (s.emit c C).change c x = s.change c { x with out := C ++ x.out } := by
  rw [change, emit_setCh]
  cases c <;> simp [change, setCh, setPend, emit, raise]

/-- The change of a channel that has handed over its frame: `C` is emitted and COMPLETE runs (R146, R176). -/
def State.handOver (s : State) (c : Chan) (C : List Byte) : Change :=
  ⟨(resolveChannel s.params (s.consumed c)).1, s.pend c, C, (resolveChannel s.params (s.consumed c)).2⟩

theorem State.complete_emit (s : State) (c : Chan) (C : List Byte) :
    (s.emit c C).complete c = s.change c (s.handOver c C) := by
  rw [complete_eq_change, change_emit]
  simp [handOver, consumed]

/-- The bytes of the frame that a channel has still to send. -/
def Channel.unsent (ch : Channel) : List Byte := (ch.buf.drop (ch.fwdOff + ch.wr)).take (ch.fwdLen - ch.wr)

/-- An emission takes its chunk off what is to send. -/
theorem Channel.chunk_append_unsent (ch : Channel) {k : Nat} (h : k ≤ ch.fwdLen - ch.wr) :
    ch.chunk k ++ { ch with wr := ch.wr + k }.unsent = ch.unsent := by
  rw [Channel.chunk_eq, Channel.unsent, Channel.unsent]
  dsimp only
  rw [← Nat.add_assoc, ← List.drop_drop (i := k), ← List.take_add, Nat.sub_add_eq, Nat.add_sub_cancel' h]

/-- Enabled sends whose sizes sum to 0 are none (R146). -/
theorem sends_eq_nil {c : Chan} {ks : List Nat} {s : State} (hsum : ks.sum = 0)
    (hen : AllEnabled (ks.map (Instr.send c)) s) : ks = [] := by
  cases ks with
  | nil => rfl
  | cons k ks =>
    obtain ⟨-, hpos, -⟩ := sendEnabled_iff.mp hen.1
    rw [List.sum_cons] at hsum
    omega

/-- Enabled sends of all that is to send hand it over, whatever their sizes. -/
theorem follow_sends {c : Chan} {ks : List Nat} {s : State} (hwr : (s.ch c).wr < (s.ch c).fwdLen)
    (hsum : ks.sum = (s.ch c).fwdLen - (s.ch c).wr) (hen : AllEnabled (ks.map (Instr.send c)) s) :
    follow (ks.map (Instr.send c)) s = .next (s.change c (s.handOver c (s.ch c).unsent)) := by
  induction ks generalizing s with
  | nil =>
    rw [List.sum_nil] at hsum
    omega
  | cons k ks ih =>
    obtain ⟨hk, hrest⟩ := hen
    obtain ⟨-, hpos, hle, -⟩ := sendEnabled_iff.mp hk
    rw [List.sum_cons] at hsum
    have hrest := hrest _ (exec_send c k s)
    rw [List.map_cons, follow_cons_of_next (exec_send c k s)]
    by_cases hlast : (s.ch c).wr + k = (s.ch c).fwdLen
    · obtain rfl := sends_eq_nil (show ks.sum = 0 by omega) hrest
      have hall : (s.ch c).chunk k = (s.ch c).unsent := by
        rw [Channel.chunk_eq, Channel.unsent, show (s.ch c).fwdLen - (s.ch c).wr = k by omega]
      rw [State.send_last hk hlast, State.sent_complete_eq_change, hall]
      rfl
    · rw [State.send_inside hk hlast] at hrest ⊢
      have hch : (s.sent c k).ch c = { s.ch c with wr := (s.ch c).wr + k } := by simp
      have hlater := ih (by rw [hch]; dsimp only; omega) (by rw [hch]; dsimp only; omega) hrest
      rw [hlater, hch, State.handOver, State.sent_eq_change, State.change_change]
      simp [State.handOver, Change.andThen, State.consumed, Channel.chunk_append_unsent _ hle]

end Sys2Proof.Machine

namespace Sys2Proof.Proofs

open Sys2Proof Sys2Proof.Machine

/-- Settles O18: with `wr = 0` the bytes to send are the frame. -/
theorem sendsHandOverTheWholeFrame : Obligations.SendsHandOverTheWholeFrame := by
  intro c ks s _ hwr hpos hsum hen
  have hrun := follow_sends (by rwa [hwr]) (by rwa [hwr]) hen
  rw [Channel.unsent, hwr] at hrun
  exact ⟨_, hrun, by rw [exec_complete, State.complete_emit]; rfl, State.sink_change s c _⟩

end Sys2Proof.Proofs
end

section
/-! PROOFS. What the monitor's operations keep, a level that stays is committed, and O35, O36, O38 to O40 and O59
(spec/43_event_monitor.md R201 to R205, spec/44_dispatch.md pacing). -/

namespace Sys2Proof.Machine

open Sys2Proof

/-! ### The monitor's invariant -/

/-- COMMIT keeps the tie of `evm.ev` to `evm.deb` (R202, R203). -/
theorem MonitorInv.commit {e : EventMonitor} (h : MonitorInv e) (p : Params) (t : Nat) : MonitorInv (e.commit p t) where
  touched := by
    rcases EventMonitor.commit_cases p e t with ⟨-, hsame⟩ | ⟨-, -, hcommit⟩
    · rw [hsame]
      exact h.touched
    · rw [hcommit, EventMonitor.transition_eq]
      cases e.cand <;> simp
  since := by simpa using h.since

/-- The observation of a sample no earlier than the last one keeps the invariant (R201). -/
theorem MonitorInv.observe {e : EventMonitor} (h : MonitorInv e) (v : Bool) {t : Nat} (ht : e.lastT ≤ t) :
    MonitorInv (e.observe v t) where
  touched := by simpa using h.touched
  since := by
    rw [EventMonitor.observe_candSince, EventMonitor.observe_lastT]
    split
    · exact le_rfl
    · exact h.since.trans ht

theorem MonitorInv.sampled {e : EventMonitor} (h : MonitorInv e) (p : Params) (v : Bool) {t : Nat}
    (ht : e.lastT ≤ t) : MonitorInv (e.sampled p v t) := (h.observe v ht).commit p t

theorem MonitorInv.reset : MonitorInv EventMonitor.reset := ⟨by simp [EventMonitor.reset], le_rfl⟩

/-- A channel's operation leaves the monitor alone. -/
theorem Relays.evm {c : Chan} {s t : State} (h : Relays c s t) : t.evm = s.evm := by
  obtain ⟨x, rfl, -⟩ := h
  exact s.evm_change c x

/-- Every effect but a lone TRANSITION keeps the monitor's invariant. -/
theorem MonitorInv.effect {i : Instr} {s t : State} (h : MonitorInv s.evm) (hi : ∀ d, i ≠ .transition d)
    (he : Effect i s t) : MonitorInv t.evm := by
  cases he with
  | answer r => exact h
  | refuse m => exact h
  | inject c C => exact (relays_inject s c C).evm ▸ h
  | recv c k => exact (relays_recv s c k).evm ▸ h
  | timeout c _ =>
    obtain ⟨ks, hks⟩ := timeout_changes s c
    rw [hks, State.evm_change]
    exact h
  | send c k => exact (relays_send s c k).evm ▸ h
  | connect =>
    unfold State.connect
    split <;> exact h
  | disconnect _ =>
    unfold State.disconnect
    split <;> exact h
  | resolve c _ => exact (relays_resolve s c).evm ▸ h
  | complete c _ => exact (relays_complete s c).evm ▸ h
  | sample v t =>
    unfold State.sample
    split
    case isTrue => exact h
    case isFalse ht => exact h.sampled s.params v (Nat.le_of_not_lt ht)
  | commit t => exact h.commit s.params t
  | publish e => exact ⟨h.touched, h.since⟩
  | take => exact ⟨h.touched, h.since⟩
  | transition d hd => exact absurd hd (hi d)
  | reset => exact MonitorInv.reset
  | deliver c F => exact (relays_deliver s c F).evm ▸ h

/-! ### The operations of the monitor, field by field -/

theorem exec_transition (d : Bool) (s : State) : exec (.transition d) s = .next { s with evm := s.evm.transition d } :=
  rfl

theorem exec_take (s : State) : exec .take s
    = .next { s with result := some (.slot s.evm.slot), evm := { s.evm with slot := none } } := rfl

/-- A candidate that differs from the debounced level and has stood for its window is committed (R202). -/
theorem EventMonitor.commit_of_due {p : Params} {e : EventMonitor} {t : Nat} (hne : e.cand ≠ e.deb)
    (hdue : e.candSince + p.debounceT ≤ t) :
    e.commit p t = ({ e with deb := e.cand } : EventMonitor).transition e.cand := if_pos ⟨hne, hdue⟩

/-! ### A level that stays (R201, R202) -/

/-- Monitor `e` under a line that shows level `v` from time `a` on and is sampled at least every `p`: either no sample
came after `a` yet, or `v` is the candidate, first seen no later than `a + p`, and is committed unless its window is
still open. -/
structure Holding (p : Params) (v : Bool) (gap a : Nat) (e : EventMonitor) : Prop where
  inv : MonitorInv e
  seen : e.lastT ≤ a ∨ (a ≤ e.lastT ∧ e.cand = v ∧ e.candSince ≤ a + gap
    ∧ (e.deb = v ∨ e.lastT < e.candSince + p.debounceT))

/-- The first part of a sample at or after `a`: the level is the candidate, first seen in time. -/
theorem Holding.observe {p : Params} {v : Bool} {gap a t : Nat} {e : EventMonitor} (h : Holding p v gap a e)
    (hgap : t ≤ e.lastT + gap) : (e.observe v t).candSince ≤ a + gap := by
  rw [EventMonitor.observe_candSince]
  have hsince := h.inv.since
  rcases h.seen with hearly | ⟨-, hcand, hold, -⟩
  · split <;> omega
  · rw [if_neg (not_not.mpr hcand.symm)]
    exact hold

/-- After COMMIT the candidate is the debounced level or its window is still open (R202). -/
theorem EventMonitor.commit_deb (p : Params) (e : EventMonitor) (t : Nat) :
    (e.commit p t).deb = e.cand ∨ t < e.candSince + p.debounceT := by
  rcases commit_cases p e t with ⟨hkept | hopen, hsame⟩ | ⟨-, -, hcommit⟩
  · exact .inl (by rw [hsame, hkept])
  · exact .inr hopen
  · exact .inl (by rw [hcommit, transition_eq])

theorem Holding.sampled {p : Params} {v w : Bool} {gap a t : Nat} {e : EventMonitor} (h : Holding p v gap a e)
    (ht : e.lastT ≤ t) (hgap : t ≤ e.lastT + gap) (hw : a ≤ t → w = v) : Holding p v gap a (e.sampled p w t) := by
  refine ⟨h.inv.sampled p w ht, ?_⟩
  rcases Nat.le_total t a with hearly | hlate
  · exact .inl (by simpa [EventMonitor.sampled] using hearly)
  · obtain rfl := hw hlate
    have hdeb := EventMonitor.commit_deb p (e.observe w t) t
    rw [EventMonitor.observe_cand] at hdeb
    exact .inr (by simpa [EventMonitor.sampled, hlate, hdeb] using h.observe hgap)

/-- An enabled run of samples keeps `Holding` and ends no earlier than any of them. -/
theorem follow_samples_holding {v : Bool} {gap a : Nat} {xs : List (Bool × Nat)} {s : State}
    (h : Holding s.params v gap a s.evm) (hgaps : GapsWithin gap (s.evm.lastT :: xs.map Prod.snd))
    (hen : AllEnabled (xs.map fun x => Instr.sample x.1 x.2) s) (hv : ∀ x ∈ xs, a ≤ x.2 → x.1 = v) :
    ∃ u, follow (xs.map fun x => Instr.sample x.1 x.2) s = .next u ∧ Holding s.params v gap a u.evm
      ∧ s.evm.lastT ≤ u.evm.lastT ∧ ∀ x ∈ xs, x.2 ≤ u.evm.lastT := by
  induction xs generalizing s with
  | nil => exact ⟨s, rfl, h, le_rfl, nofun⟩
  | cons x xs ih =>
    obtain ⟨hx, hrest⟩ := hen
    obtain ⟨⟨hgap, -⟩, hgaps⟩ := hgaps
    have hle : s.evm.lastT ≤ x.2 := of_decide_eq_true hx
    have hnext := exec_sample_of_le x.1 hle
    have hlast : (s.evm.sampled s.params x.1 x.2).lastT = x.2 := by simp [EventMonitor.sampled]
    obtain ⟨u, hrun, hu, hlater, hall⟩ := ih (s := { s with evm := s.evm.sampled s.params x.1 x.2 })
      (h.sampled hle hgap (hv x List.mem_cons_self)) (hlast.symm ▸ hgaps) (hrest _ hnext)
      (fun y hy => hv y (List.mem_cons_of_mem x hy))
    dsimp only at hlater
    rw [hlast] at hlater
    refine ⟨u, (follow_cons_of_next hnext).trans hrun, hu, hle.trans hlater, fun y hy => ?_⟩
    rcases List.mem_cons.mp hy with rfl | hy
    · exact hlater
    · exact hall y hy

end Sys2Proof.Machine

namespace Sys2Proof.Proofs

open Sys2Proof Sys2Proof.Machine

/-- Settles O35, by whether the candidate is due. -/
theorem commitAfterTheDebounceWindow : Obligations.CommitAfterTheDebounceWindow := by
  intro t s
  refine ⟨fun hne hdue => ⟨_, exec_commit t s, ?_⟩, fun h => ?_⟩
  · rw [exec_transition, EventMonitor.commit_of_due hne hdue]
  · rw [exec_commit, EventMonitor.commit_of_not_due h]

/-- Settles O36, from TRANSITION by its level. -/
theorem transitionPublishesTheNewState : Obligations.TransitionPublishesTheNewState := by
  intro s
  refine ⟨?_, ?_⟩ <;> rw [exec_transition, EventMonitor.transition_eq] <;> rfl

/-- Settles O38. -/
theorem takeAnswersAndEmptiesTheSlot : Obligations.TakeAnswersAndEmptiesTheSlot := exec_take

/-- Settles O39, operation by operation: each writes the monitor and at most one field of the model's own. -/
theorem monitorOperationsKeepTheRelay : Obligations.MonitorOperationsKeepTheRelay := by
  intro i s t hi hexec
  rcases hi with ⟨v, x, rfl⟩ | ⟨x, rfl⟩ | ⟨e, rfl⟩ | ⟨d, rfl⟩ | rfl
  · cases hexec.symm.trans (exec_sample v x s)
    unfold State.sample
    split <;> exact ⟨rfl, rfl, rfl, rfl, rfl, rfl, rfl, rfl, rfl, rfl, rfl, fun _ => rfl, fun h => absurd rfl (h v x)⟩
  · cases hexec.symm.trans (exec_commit x s)
    exact ⟨rfl, rfl, rfl, rfl, rfl, rfl, rfl, rfl, rfl, rfl, rfl, fun _ => rfl, fun _ => rfl⟩
  · cases hexec.symm.trans (exec_publish e s)
    exact ⟨rfl, rfl, rfl, rfl, rfl, rfl, rfl, rfl, rfl, rfl, rfl, fun _ => rfl, fun _ => rfl⟩
  · cases hexec.symm.trans (exec_transition d s)
    exact ⟨rfl, rfl, rfl, rfl, rfl, rfl, rfl, rfl, rfl, rfl, rfl, fun _ => rfl, fun _ => rfl⟩
  · cases hexec.symm.trans (exec_take s)
    exact ⟨rfl, rfl, rfl, rfl, rfl, rfl, rfl, rfl, rfl, rfl, rfl, fun h => absurd rfl h, fun _ => rfl⟩

/-- Settles O40, from the effect of every operation. -/
theorem operationsKeepTheMonitorInvariant : Obligations.OperationsKeepTheMonitorInvariant :=
  fun _ _ _ hi h hexec => h.effect hi (effect_of_exec hexec)

/-- Settles O59: after the sample at or past `a + p + DEBOUNCE_T` neither side of `Holding` leaves the level
uncommitted. -/
theorem stableLevelsAreCommitted : Obligations.StableLevelsAreCommitted := by
  intro v p a xs s hinv hlast hgaps hen hv hlate
  obtain ⟨u, hrun, hhold, -, hall⟩ := follow_samples_holding ⟨hinv, .inl hlast⟩ hgaps hen hv
  obtain ⟨x, hx, hxt⟩ := hlate
  have hend := hall x hx
  have hpos := s.params.debounceT_pos
  have hdeb : u.evm.deb = v := by
    rcases hhold.seen with hearly | ⟨-, -, hsince, hdeb | hopen⟩
    · omega
    · exact hdeb
    · omega
  exact ⟨u, hrun, hdeb, hdeb ▸ hhold.inv.touched⟩

end Sys2Proof.Proofs
end

section
/-! PROOFS. Refusals, power-on, lines, steps and status outputs, and O6, O43, O52, O53, O56 and O57
(spec/60_exceptions.md section 4, spec/70_reset_and_hazards.md section 1, spec/30_encoding.md R92 and R94,
spec/10_state.md section 6). -/

namespace Sys2Proof.Machine

open Sys2Proof

/-! ### Refusals (R264) -/

/-- Outside its domain ENCODE is refused (R114). -/
theorem exec_encode_of_gt {s : State} {P : List Byte} (a : Addr) (t : Byte) (h : s.params.maxPayload < P.length) :
    exec (.encode a t P) s = .next (s.refuse .encodePayload) := by
  change execEncode a t P s = _
  rw [execEncode, if_pos h]

/-- A sample before the last one is refused (R200). -/
theorem exec_sample_of_lt {s : State} {t : Nat} (v : Bool) (h : t < s.evm.lastT) :
    exec (.sample v t) s = .next (s.refuse .sampleTime) := by
  rw [exec_sample, State.sample, if_pos h]

/-- Parameters outside R8's ranges are refused. -/
theorem State.configure_of_out_of_range {m u d : Nat} (s : State) (h : 65533 < m ∨ u = 0 ∨ d = 0) :
    s.configure m u d = s.refuse .parameters := by
  have hnone : makeParams? m u d = none := dif_neg (by omega)
  rw [configure, hnone]

/-! ### Steps -/

theorem step_of_empty {s : State} (h : s.schedule = []) : step s = .next s := by
  simp [step, State.fetch, h]

theorem step_of_decoded {s : State} {l : Line} {rest : List Line} {i : Instr} (h : s.schedule = l :: rest)
    (hd : decode l = .ok i) : step s = exec i { s with schedule := rest } := by
  simp [step, State.fetch, h, hd]

theorem step_of_undecodable {s : State} {l : Line} {rest : List Line} {e : DecodeError} (h : s.schedule = l :: rest)
    (hd : decode l = .error e) : step s = .refused (.undecodable e) := by
  simp [step, State.fetch, h, hd]

/-! ### Status outputs (R39) -/

theorem ChSt.code_inj {a b : ChSt} : a = b ↔ a.code = b.code := by
  cases a <;> cases b <;> decide

theorem eventCode_inj {a b : EventState} : a = b ↔ eventCode a = eventCode b := by
  cases a <;> cases b <;> decide

/-- The width of `ch.n` is `ceil(log2(CAP + 1))`: it holds every count up to `CAP`, and one bit less does not. -/
theorem nWidth_bounds (p : Params) : 2 ^ (nWidth p - 1) < p.cap + 1 ∧ p.cap + 1 ≤ 2 ^ nWidth p := by
  have hcap : p.cap ≠ 0 := by rw [cap_eq]; omega
  exact ⟨Nat.lt_succ_of_le (Nat.log2_self_le hcap), Nat.lt_log2_self⟩

/-- A count within the capacity fits its output. -/
theorem ChannelInv.count_fits {p : Params} {ch : Channel} (h : ChannelInv p ch) : ch.n < 2 ^ nWidth p :=
  (Nat.lt_succ_of_le h.bound).trans_le (nWidth_bounds p).2

end Sys2Proof.Machine

namespace Sys2Proof.Proofs

open Sys2Proof Sys2Proof.Machine

/-- Settles O6, refusal by refusal. -/
theorem refusalsLeaveOnlyAMark : Obligations.RefusalsLeaveOnlyAMark := fun s =>
  ⟨fun a t _ h => exec_encode_of_gt a t h, fun v _ h => exec_sample_of_lt v h, fun _ => rfl, fun _ => rfl,
    fun _ _ _ h => s.configure_of_out_of_range h⟩

/-- Settles O43: the values by definition, the invariants of a channel and of the monitor in their reset states. -/
theorem powerOnStateIsAtRest : Obligations.PowerOnStateIsAtRest :=
  ⟨⟨rfl, rfl, rfl, rfl, rfl, rfl, rfl, rfl, rfl, rfl, rfl, rfl, rfl⟩, ⟨rfl, rfl, rfl, .inl rfl⟩,
    ⟨channelInv_reset _, channelInv_reset _⟩, MonitorInv.reset⟩

/-- Settles O52: the first bytes by the encoder's equations, the four codes of the unused ranges by decoding. -/
theorem actionCodesOpenTheLines : Obligations.ActionCodesOpenTheLines :=
  ⟨fun _ _ _ => rfl, fun _ => rfl, fun _ => rfl, fun _ => rfl, fun _ _ _ => rfl, fun _ => rfl, fun _ => rfl,
    fun _ _ => rfl, fun _ => rfl, fun _ _ => rfl, rfl, rfl, fun _ => rfl, fun _ => rfl, fun _ _ => rfl, fun _ => rfl,
    fun _ => rfl, rfl, rfl, fun _ => rfl, rfl, rfl, rfl, rfl⟩

/-- Settles O53, line by line. -/
theorem writtenLinesDecode : Obligations.WrittenLinesDecode :=
  ⟨by decide, by decide, by decide, by decide, by decide, by decide, by decide, by decide⟩

/-- Settles O56, by the schedule and the decoder. -/
theorem stepRunsTheNextLine : Obligations.StepRunsTheNextLine := fun _ =>
  ⟨step_of_empty, fun _ _ _ => step_of_decoded, fun _ _ _ => step_of_undecodable⟩

/-- Settles O57: the codes tell the states apart, and the width holds every count within the capacity. -/
theorem statusOutputsShowTheRegisters : Obligations.StatusOutputsShowTheRegisters := by
  intro s
  have hcode : ∀ x ∈ [(ChSt.waitHeader, (0b00 : BitVec 2)), (.waitBody, 0b01), (.forwarding, 0b10), (.error, 0b11)],
      x.1.code = x.2 := by decide
  have hevent : ∀ x ∈ [(EventState.idle, (0b00 : BitVec 2)), (.touched, 0b01), (.released, 0b10)],
      eventCode x.1 = x.2 := by decide
  have herror : ∀ st : ChSt, st ≠ .error → st.code ≠ 0b11 := fun st h hc => h (ChSt.code_inj.mpr hc)
  refine ⟨fun x hx => ?_, fun x hx => ?_, ?_, rfl, rfl, rfl, Option.isSome_iff_exists, nWidth_bounds s.params,
    fun hinv => ⟨hinv.h2s.count_fits, hinv.s2h.count_fits, herror _ hinv.h2s.not_error, herror _ hinv.s2h.not_error⟩⟩
  · rw [← hcode x hx]
    exact ⟨ChSt.code_inj, ChSt.code_inj⟩
  · rw [← hevent x hx]
    exact eventCode_inj
  · change eventCode s.evm.ev ≠ 0b11
    cases s.evm.ev <;> decide

end Sys2Proof.Proofs
end
